-- ==== Sys2Proof/Word.lean ====
section
/-! DEFINITION. The bit-vector types of the block: what 10_state.md R10 and 30_encoding.md R50 to R52 treat as bits. -/

namespace Sys2Proof

/-- An 8-bit half, `I`, `R`, the flags byte, a tag or an enable mask (R10, R23, R54). -/
abbrev Byte := BitVec 8

/-- A 16-bit cell (R10). -/
abbrev Word := BitVec 16

/-- The `X`, `Y` and `RES` fields (R50, R52). -/
abbrev Field24 := BitVec 24

/-- A command: one 64-bit word `OP SEL XXXXXX YYYYYY` (R50). -/
abbrev CommandWord := BitVec 64

/-- A response: one 32-bit word `STATUS RES` (R52). -/
abbrev ResponseWord := BitVec 32

end Sys2Proof
end

