-- ==== Sys2Proof/Config.lean ====
section
/-! DEFINITION. What an implementation fixes and the spec leaves open: the type `Ext` and the parameter `F35_16`
(00_scope.md section 5; 92_eei_decisions.md, parameters left open). -/

namespace Sys2Proof

/-- Where `add16` and `subtract16` take `F5` and `F3` from (parameter `F35_16`, 43_add_subtract.md R104, decision D18). -/
inductive F35Source where
  /-- bits 13 and 11 of the 16-bit result: the default the spec takes -/
  | high
  /-- bits 5 and 3 of the 16-bit result -/
  | low
deriving DecidableEq, Repr

/-- DESIGN CHOICE (log 4). A value of the embedding system's type `Ext` (10_state.md R19): a token no rule inspects,
only stores. -/
structure Ext where
  token : Nat
deriving DecidableEq, Repr

/-- The open parameters of one block. No step changes them. -/
structure Params where
  f35_16 : F35Source
deriving DecidableEq, Repr

/-- DESIGN CHOICE (log 6). The parameter value a run from reset has: the spec's default. -/
def Params.default : Params := { f35_16 := .high }

end Sys2Proof
end

