-- ==== Sys2Proof/Syntax.lean ====
section
/-! DEFINITION. The names the block addresses (20_memory.md R41) and its 34 operations (30_encoding.md R55). -/

namespace Sys2Proof

/-- The six cells that have two halves (10_state.md R23). -/
inductive Pair where
  | af | bc | de | hl | ix | iy
deriving DecidableEq, Repr

/-- The four shadow pairs `AF' BC' DE' HL'`: plain storage without halves (10_state.md R12). -/
inductive Shadow where
  | af | bc | de | hl
deriving DecidableEq, Repr

/-- The 30 register names of `get` and `set` (30_encoding.md R56): twelve halves and the eighteen cells but `power`. -/
inductive RegName where
  /-- `A B D H IXH IYH` -/
  | high (p : Pair)
  /-- `F C E L IXL IYL` -/
  | low (p : Pair)
  | pair (p : Pair)
  | sp
  | pc
  | shadow (q : Shadow)
  | i
  | r
  | halt
  | iff
  | iff2
  | im
deriving DecidableEq, Repr

/-- The eight flags of `F` (10_state.md R24). -/
inductive FlagBit where
  | c | n | pv | f3 | h | f5 | z | s
deriving DecidableEq, Repr

/-- The eleven flag names of `fget` and `fset` (30_encoding.md R57). -/
inductive FlagName where
  | bit (k : FlagBit)
  /-- the complement of bit 6 (R26) -/
  | notZ
  /-- another name of `PV` (R27) -/
  | p
  /-- another name of `PV` (R27) -/
  | v
deriving DecidableEq, Repr

/-- The four write-only flag groups of `gset` (10_state.md R28). -/
inductive GroupName where
  | shn | hn | hnc | nc
deriving DecidableEq, Repr

/-- The operations of 30_encoding.md R55, one constructor each, named by their mnemonics. `sel` is the raw tag byte: a tag
that names nothing still decodes and is found when the operation runs (R61). `x` and `y` are the signed readings of the
fields `X` and `Y` (R51), `en` the enable mask (R100), `ext` the reset option `SEL[0]` (R59). -/
inductive Instr where
  | get (sel : Byte)
  | set (sel : Byte) (x : Int)
  | reset (ext : Bool)
  | fget (sel : Byte)
  | fset (sel : Byte) (x : Int)
  | gset (sel : Byte) (x : Int)
  | toSigned8 (x : Int)
  | toSigned16 (x : Int)
  | toUnsigned8 (x : Int)
  | toUnsigned16 (x : Int)
  | subtract8 (en : Byte) (x y : Int)
  | subtract8VC (x y : Int)
  | add8 (en : Byte) (x y : Int)
  | add16 (x y : Int)
  | subtract16 (x y : Int)
  | inc8 (x : Int)
  | dec8 (x : Int)
  | inc16 (x : Int)
  | dec16 (x : Int)
  | parity8 (x : Int)
  | and_n (x : Int)
  | or_n (x : Int)
  | xor_n (x : Int)
  | rotateLeftCarry (x : Int)
  | rotateLeft (x : Int)
  | rotateRightCarry (x : Int)
  | rotateRight (x : Int)
  | shiftLeft (x : Int)
  | shiftLeftLogical (x : Int)
  | shiftRight (x : Int)
  | shiftRightLogical (x : Int)
  | offsetPC (x : Int)
  | setF5F3 (x : Int)
  | setF5F3FromAccumulator
deriving DecidableEq, Repr

end Sys2Proof
end

