-- ==== Sys2Proof/WellFormed.lean ====
section
/-! DEFINITION. When an instruction can be written as a command word: each integer operand fits its 24-bit two's
complement field (30_encoding.md R51). Tags and masks fit by their type. -/

namespace Sys2Proof

/-- The operand is in `-8388608 .. 8388607` (R51). -/
abbrev fits24 (x : Int) : Prop := -8388608 ≤ x ∧ x ≤ 8388607

/-- Every integer operand of the instruction fits its field. -/
def Instr.wf : Instr → Bool
  | .get _ => true
  | .set _ x => decide (fits24 x)
  | .reset _ => true
  | .fget _ => true
  | .fset _ x => decide (fits24 x)
  | .gset _ x => decide (fits24 x)
  | .toSigned8 x => decide (fits24 x)
  | .toSigned16 x => decide (fits24 x)
  | .toUnsigned8 x => decide (fits24 x)
  | .toUnsigned16 x => decide (fits24 x)
  | .subtract8 _ x y => decide (fits24 x ∧ fits24 y)
  | .subtract8VC x y => decide (fits24 x ∧ fits24 y)
  | .add8 _ x y => decide (fits24 x ∧ fits24 y)
  | .add16 x y => decide (fits24 x ∧ fits24 y)
  | .subtract16 x y => decide (fits24 x ∧ fits24 y)
  | .inc8 x => decide (fits24 x)
  | .dec8 x => decide (fits24 x)
  | .inc16 x => decide (fits24 x)
  | .dec16 x => decide (fits24 x)
  | .parity8 x => decide (fits24 x)
  | .and_n x => decide (fits24 x)
  | .or_n x => decide (fits24 x)
  | .xor_n x => decide (fits24 x)
  | .rotateLeftCarry x => decide (fits24 x)
  | .rotateLeft x => decide (fits24 x)
  | .rotateRightCarry x => decide (fits24 x)
  | .rotateRight x => decide (fits24 x)
  | .shiftLeft x => decide (fits24 x)
  | .shiftLeftLogical x => decide (fits24 x)
  | .shiftRight x => decide (fits24 x)
  | .shiftRightLogical x => decide (fits24 x)
  | .offsetPC x => decide (fits24 x)
  | .setF5F3 x => decide (fits24 x)
  | .setF5F3FromAccumulator => true

end Sys2Proof
end

