-- ==== Sys2Proof/Decode.lean ====
section
/-! DEFINITION. Command words (30_encoding.md): the field layout (R50, R51), the formats (R53), the opcode map (R55), the
decoder, total on 64-bit words and rejecting by name (R60, R61), and the encoder. -/

namespace Sys2Proof

/-- `OP`, bits 63:56 (R50). -/
def opField (w : CommandWord) : Byte := w.extractLsb' 56 8

/-- `SEL`, bits 55:48 (R50). -/
def selField (w : CommandWord) : Byte := w.extractLsb' 48 8

/-- `X`, bits 47:24 (R50). -/
def xField (w : CommandWord) : Field24 := w.extractLsb' 24 24

/-- `Y`, bits 23:0 (R50). -/
def yField (w : CommandWord) : Field24 := w.extractLsb' 0 24

/-- The word `OP SEL XXXXXX YYYYYY` (R50). -/
def packCommand (op sel : Byte) (x y : Field24) : CommandWord :=
  (op.setWidth 64 <<< 56) ||| (sel.setWidth 64 <<< 48) ||| (x.setWidth 64 <<< 24) ||| y.setWidth 64

/-- The integer operand carried by `X` or `Y`: two's complement (R51). -/
def operandOf (f : Field24) : Int := f.toInt

/-- The field that carries an integer operand (R51). -/
def fieldOf (x : Int) : Field24 := BitVec.ofInt 24 x

/-- The seven formats: which fields an operation reads (R53). -/
inductive Format where
  | N | R | T | TV | V | VV | VVE
deriving DecidableEq, Repr

/-- The bits of the command word a format reads; every other bit is ignored (R53, R59). -/
def Format.mask : Format → CommandWord
  | .N => 0xFF00000000000000
  | .R => 0xFF01000000000000
  | .T => 0xFFFF000000000000
  | .TV => 0xFFFFFFFFFF000000
  | .V => 0xFF00FFFFFF000000
  | .VV => 0xFF00FFFFFFFFFFFF
  | .VVE => 0xFFFFFFFFFFFFFFFF

/-- The format column of R55. -/
def Instr.format : Instr → Format
  | .get _ => .T
  | .set _ _ => .TV
  | .reset _ => .R
  | .fget _ => .T
  | .fset _ _ => .TV
  | .gset _ _ => .TV
  | .toSigned8 _ => .V
  | .toSigned16 _ => .V
  | .toUnsigned8 _ => .V
  | .toUnsigned16 _ => .V
  | .subtract8 _ _ _ => .VVE
  | .subtract8VC _ _ => .VV
  | .add8 _ _ _ => .VVE
  | .add16 _ _ => .VV
  | .subtract16 _ _ => .VV
  | .inc8 _ => .V
  | .dec8 _ => .V
  | .inc16 _ => .V
  | .dec16 _ => .V
  | .parity8 _ => .V
  | .and_n _ => .V
  | .or_n _ => .V
  | .xor_n _ => .V
  | .rotateLeftCarry _ => .V
  | .rotateLeft _ => .V
  | .rotateRightCarry _ => .V
  | .rotateRight _ => .V
  | .shiftLeft _ => .V
  | .shiftLeftLogical _ => .V
  | .shiftRight _ => .V
  | .shiftRightLogical _ => .V
  | .offsetPC _ => .V
  | .setF5F3 _ => .V
  | .setF5F3FromAccumulator => .N

/-- The `OP` column of R55. -/
def Instr.op : Instr → Byte
  | .get _ => 0x01
  | .set _ _ => 0x02
  | .reset _ => 0x03
  | .fget _ => 0x08
  | .fset _ _ => 0x09
  | .gset _ _ => 0x0A
  | .toSigned8 _ => 0x10
  | .toSigned16 _ => 0x11
  | .toUnsigned8 _ => 0x12
  | .toUnsigned16 _ => 0x13
  | .subtract8 _ _ _ => 0x20
  | .subtract8VC _ _ => 0x21
  | .add8 _ _ _ => 0x22
  | .add16 _ _ => 0x23
  | .subtract16 _ _ => 0x24
  | .inc8 _ => 0x28
  | .dec8 _ => 0x29
  | .inc16 _ => 0x2A
  | .dec16 _ => 0x2B
  | .parity8 _ => 0x30
  | .and_n _ => 0x31
  | .or_n _ => 0x32
  | .xor_n _ => 0x33
  | .rotateLeftCarry _ => 0x40
  | .rotateLeft _ => 0x41
  | .rotateRightCarry _ => 0x42
  | .rotateRight _ => 0x43
  | .shiftLeft _ => 0x44
  | .shiftLeftLogical _ => 0x45
  | .shiftRight _ => 0x46
  | .shiftRightLogical _ => 0x47
  | .offsetPC _ => 0x50
  | .setF5F3 _ => 0x51
  | .setF5F3FromAccumulator => 0x52

/-- What the decoder reports: an operation with its operands, or a word whose `OP` selects none (R60). -/
inductive DecodeResult where
  | instr (i : Instr)
  | undefinedOp (op : Byte)
deriving DecidableEq, Repr

/-- The operation a command word selects. Only `OP` selects (R55); every `SEL`, `X`, `Y` decodes (R61); unused fields are
ignored (R53). -/
def decode (w : CommandWord) : DecodeResult :=
  match opField w with
  | 0x01#8 => .instr (.get (selField w))
  | 0x02#8 => .instr (.set (selField w) (operandOf (xField w)))
  | 0x03#8 => .instr (.reset ((selField w).getLsbD 0))
  | 0x08#8 => .instr (.fget (selField w))
  | 0x09#8 => .instr (.fset (selField w) (operandOf (xField w)))
  | 0x0A#8 => .instr (.gset (selField w) (operandOf (xField w)))
  | 0x10#8 => .instr (.toSigned8 (operandOf (xField w)))
  | 0x11#8 => .instr (.toSigned16 (operandOf (xField w)))
  | 0x12#8 => .instr (.toUnsigned8 (operandOf (xField w)))
  | 0x13#8 => .instr (.toUnsigned16 (operandOf (xField w)))
  | 0x20#8 => .instr (.subtract8 (selField w) (operandOf (xField w)) (operandOf (yField w)))
  | 0x21#8 => .instr (.subtract8VC (operandOf (xField w)) (operandOf (yField w)))
  | 0x22#8 => .instr (.add8 (selField w) (operandOf (xField w)) (operandOf (yField w)))
  | 0x23#8 => .instr (.add16 (operandOf (xField w)) (operandOf (yField w)))
  | 0x24#8 => .instr (.subtract16 (operandOf (xField w)) (operandOf (yField w)))
  | 0x28#8 => .instr (.inc8 (operandOf (xField w)))
  | 0x29#8 => .instr (.dec8 (operandOf (xField w)))
  | 0x2A#8 => .instr (.inc16 (operandOf (xField w)))
  | 0x2B#8 => .instr (.dec16 (operandOf (xField w)))
  | 0x30#8 => .instr (.parity8 (operandOf (xField w)))
  | 0x31#8 => .instr (.and_n (operandOf (xField w)))
  | 0x32#8 => .instr (.or_n (operandOf (xField w)))
  | 0x33#8 => .instr (.xor_n (operandOf (xField w)))
  | 0x40#8 => .instr (.rotateLeftCarry (operandOf (xField w)))
  | 0x41#8 => .instr (.rotateLeft (operandOf (xField w)))
  | 0x42#8 => .instr (.rotateRightCarry (operandOf (xField w)))
  | 0x43#8 => .instr (.rotateRight (operandOf (xField w)))
  | 0x44#8 => .instr (.shiftLeft (operandOf (xField w)))
  | 0x45#8 => .instr (.shiftLeftLogical (operandOf (xField w)))
  | 0x46#8 => .instr (.shiftRight (operandOf (xField w)))
  | 0x47#8 => .instr (.shiftRightLogical (operandOf (xField w)))
  | 0x50#8 => .instr (.offsetPC (operandOf (xField w)))
  | 0x51#8 => .instr (.setF5F3 (operandOf (xField w)))
  | 0x52#8 => .instr .setF5F3FromAccumulator
  | op => .undefinedOp op

/-- The command word of an instruction; a field its format does not read is written as zero (R53). -/
def encode : Instr → CommandWord
  | .get sel => packCommand 0x01 sel 0 0
  | .set sel x => packCommand 0x02 sel (fieldOf x) 0
  | .reset ext => packCommand 0x03 ((BitVec.ofBool ext).setWidth 8) 0 0
  | .fget sel => packCommand 0x08 sel 0 0
  | .fset sel x => packCommand 0x09 sel (fieldOf x) 0
  | .gset sel x => packCommand 0x0A sel (fieldOf x) 0
  | .toSigned8 x => packCommand 0x10 0 (fieldOf x) 0
  | .toSigned16 x => packCommand 0x11 0 (fieldOf x) 0
  | .toUnsigned8 x => packCommand 0x12 0 (fieldOf x) 0
  | .toUnsigned16 x => packCommand 0x13 0 (fieldOf x) 0
  | .subtract8 en x y => packCommand 0x20 en (fieldOf x) (fieldOf y)
  | .subtract8VC x y => packCommand 0x21 0 (fieldOf x) (fieldOf y)
  | .add8 en x y => packCommand 0x22 en (fieldOf x) (fieldOf y)
  | .add16 x y => packCommand 0x23 0 (fieldOf x) (fieldOf y)
  | .subtract16 x y => packCommand 0x24 0 (fieldOf x) (fieldOf y)
  | .inc8 x => packCommand 0x28 0 (fieldOf x) 0
  | .dec8 x => packCommand 0x29 0 (fieldOf x) 0
  | .inc16 x => packCommand 0x2A 0 (fieldOf x) 0
  | .dec16 x => packCommand 0x2B 0 (fieldOf x) 0
  | .parity8 x => packCommand 0x30 0 (fieldOf x) 0
  | .and_n x => packCommand 0x31 0 (fieldOf x) 0
  | .or_n x => packCommand 0x32 0 (fieldOf x) 0
  | .xor_n x => packCommand 0x33 0 (fieldOf x) 0
  | .rotateLeftCarry x => packCommand 0x40 0 (fieldOf x) 0
  | .rotateLeft x => packCommand 0x41 0 (fieldOf x) 0
  | .rotateRightCarry x => packCommand 0x42 0 (fieldOf x) 0
  | .rotateRight x => packCommand 0x43 0 (fieldOf x) 0
  | .shiftLeft x => packCommand 0x44 0 (fieldOf x) 0
  | .shiftLeftLogical x => packCommand 0x45 0 (fieldOf x) 0
  | .shiftRight x => packCommand 0x46 0 (fieldOf x) 0
  | .shiftRightLogical x => packCommand 0x47 0 (fieldOf x) 0
  | .offsetPC x => packCommand 0x50 0 (fieldOf x) 0
  | .setF5F3 x => packCommand 0x51 0 (fieldOf x) 0
  | .setF5F3FromAccumulator => packCommand 0x52 0 0 0

/-- The instruction the decoder reads from a command given as the opcode table numbers its bits: one 64-bit word, bit 0 its
least significant bit (R50); bits from `nbits` up are zero. -/
def decodeTableWord (nbits w : Nat) : Option Instr :=
  match decode (BitVec.ofNat 64 (w % 2 ^ nbits)) with
  | .instr i => some i
  | .undefinedOp _ => none

end Sys2Proof
end

