-- ==== Sys2Proof/Machine/State.lean ====
section
/-! DEFINITION. The state: the nineteen cells of 10_state.md R10, and around them the block's interface, which is no cell:
the last response (30_encoding.md R52), the side input EXT_IN (R59) and what the outside has sent (00_scope.md R1). -/

namespace Sys2Proof.Machine

open Sys2Proof

/-- The nineteen storage cells (R10). Halves, flags and groups are views and have no storage (R22, R24, R28). -/
structure RegFile where
  af : Word
  bc : Word
  de : Word
  hl : Word
  ix : Word
  iy : Word
  sp : Word
  pc : Word
  /-- `AF'` -/
  afShadow : Word
  /-- `BC'` -/
  bcShadow : Word
  /-- `DE'` -/
  deShadow : Word
  /-- `HL'` -/
  hlShadow : Word
  i : Byte
  r : Byte
  halt : Bool
  iff : Bool
  iff2 : Bool
  /-- two bits: the spec's decision D11 (R18, log 5) -/
  im : BitVec 2
  /-- absent, or the embedding system's value (R19) -/
  power : Option Ext
deriving DecidableEq, Repr

/-- The two kinds of error a command can be answered with (60_exceptions.md R160). -/
inductive ErrorKind where
  /-- a tag that names nothing (R161) -/
  | unknownRegister
  /-- an operand outside its declared range (R162) -/
  | operandOutOfRange
deriving DecidableEq, Repr

/-- The `STATUS` values the block gives (R52): 0, 1 and 2. -/
inductive Status where
  | done
  | error (e : ErrorKind)
deriving DecidableEq, Repr

/-- The response to a command (R52). -/
structure Response where
  status : Status
  res : Field24
deriving DecidableEq, Repr

/-- What the outside sends to the block (00_scope.md R1; 70_reset_and_hazards.md R180). -/
inductive Input where
  /-- a command word, and the value present on EXT_IN beside it (R59) -/
  | command (word : CommandWord) (extIn : Ext)
  /-- a pulse of the hardware reset input, with the extension value if the embedding system drives EXT_IN (R180, D28) -/
  | resetLine (ext : Option Ext)
deriving DecidableEq, Repr

/-- The block and its interface. -/
structure State where
  rf : RegFile
  /-- the open parameters (log 6); no step changes them -/
  params : Params
  /-- DESIGN CHOICE (log 3): the value presented on EXT_IN with the command taken last; the spec gives EXT_IN no storage (R59). A
  reset pulse that drives EXT_IN leaves it as it is. -/
  extIn : Ext
  /-- what has been sent and not yet taken, oldest first (R48, log 1) -/
  pending : List Input
  /-- the response given last, absent before the first (R52, log 2) -/
  response : Option Response
deriving DecidableEq, Repr

/-- Nothing stops the block: both errors are answers, after which it takes the next command (R160, R165, R190; log 7).
So there is no fault, and no constructor. -/
inductive Fault
deriving DecidableEq, Repr

/-- Why a step is refused. -/
inductive Refusal where
  /-- raised by an arm of `exec` whose instruction has no meaning yet; none is left. Safe: nothing is proved of it. -/
  | notModelled (mnemonic : String)
  /-- raised by `step` on a command word whose `OP` is not in R55: the spec gives it no meaning and asks for a refusal
  (R60, D8). Safe: the block's own behaviour there is unknown. -/
  | undefinedOp (op : Byte)
deriving DecidableEq, Repr

/-- The cells after power-on, construction or reset (R31): all zero or false, `power` as supplied. -/
def RegFile.powerOn (ext : Option Ext) : RegFile where
  af := 0x0000
  bc := 0x0000
  de := 0x0000
  hl := 0x0000
  ix := 0x0000
  iy := 0x0000
  sp := 0x0000
  pc := 0x0000
  afShadow := 0x0000
  bcShadow := 0x0000
  deShadow := 0x0000
  hlShadow := 0x0000
  i := 0x00
  r := 0x00
  halt := false
  iff := false
  iff2 := false
  im := 0
  power := ext

/-- The machine right after power-on, with no extension value supplied (R31, R180). The interface fields are the model's
own: nothing sent, nothing answered, EXT_IN at token 0, the default parameters (logs 1, 2, 3, 6). -/
def State.reset : State where
  rf := RegFile.powerOn none
  params := Params.default
  extIn := { token := 0 }
  pending := []
  response := none

end Sys2Proof.Machine
end

