-- ==== Sys2Proof/Machine/Operands.lean ====
section
/-! DEFINITION. Operand forms: the tags (30_encoding.md R56 to R58), the declared operand ranges (60_exceptions.md R162), and
how a byte, a word and a signed reading are taken from an integer (00_scope.md section 6),
and the home of each pair. -/

namespace Sys2Proof.Machine

open Sys2Proof

/-- Bits 15:8 of a pair (R20). -/
def hiByte (w : Word) : Byte := w.extractLsb' 8 8

/-- Bits 7:0 of a pair (R20). -/
def loByte (w : Word) : Byte := w.extractLsb' 0 8

/-- `(h << 8) | l`: the half named first is the high byte (20_memory.md R43). -/
def joinBytes (h l : Byte) : Word := (h.setWidth 16 <<< 8) ||| l.setWidth 16

/-- `x mod 256` as a byte; for a negative `x` the non-negative remainder (R21, D31). -/
def byteOf (x : Int) : Byte := BitVec.ofInt 8 x

/-- `x mod 65536` as a word (R21, D31). -/
def wordOf (x : Int) : Word := BitVec.ofInt 16 x

/-- `sext_8` (00_scope.md section 6; R90). -/
def sext8 (b : Byte) : Int := b.toInt

/-- `sext_16` (00_scope.md section 6; R91). -/
def sext16 (w : Word) : Int := w.toInt

/-- `RF[P]` for a cell with halves. -/
def RegFile.readPair (rf : RegFile) : Pair → Word
  | .af => rf.af
  | .bc => rf.bc
  | .de => rf.de
  | .hl => rf.hl
  | .ix => rf.ix
  | .iy => rf.iy

/-- `RF[P] <- w` for a cell with halves. -/
def RegFile.writePair (rf : RegFile) (p : Pair) (w : Word) : RegFile :=
  match p with
  | .af => { rf with af := w }
  | .bc => { rf with bc := w }
  | .de => { rf with de := w }
  | .hl => { rf with hl := w }
  | .ix => { rf with ix := w }
  | .iy => { rf with iy := w }

/-- `RF[Q]` for a shadow pair (R12). -/
def RegFile.readShadow (rf : RegFile) : Shadow → Word
  | .af => rf.afShadow
  | .bc => rf.bcShadow
  | .de => rf.deShadow
  | .hl => rf.hlShadow

/-- `RF[Q] <- w` for a shadow pair (R12). -/
def RegFile.writeShadow (rf : RegFile) (q : Shadow) (w : Word) : RegFile :=
  match q with
  | .af => { rf with afShadow := w }
  | .bc => { rf with bcShadow := w }
  | .de => { rf with deShadow := w }
  | .hl => { rf with hlShadow := w }

/-- The register a tag names in `get` and `set` (R56). -/
def regOfTag (t : Byte) : Option RegName :=
  match t with
  | 0x00#8 => some (.high .af)
  | 0x01#8 => some (.low .af)
  | 0x02#8 => some (.high .bc)
  | 0x03#8 => some (.low .bc)
  | 0x04#8 => some (.high .de)
  | 0x05#8 => some (.low .de)
  | 0x06#8 => some (.high .hl)
  | 0x07#8 => some (.low .hl)
  | 0x08#8 => some (.high .ix)
  | 0x09#8 => some (.low .ix)
  | 0x0A#8 => some (.high .iy)
  | 0x0B#8 => some (.low .iy)
  | 0x0C#8 => some .i
  | 0x0D#8 => some .r
  | 0x10#8 => some (.pair .af)
  | 0x11#8 => some (.pair .bc)
  | 0x12#8 => some (.pair .de)
  | 0x13#8 => some (.pair .hl)
  | 0x14#8 => some (.pair .ix)
  | 0x15#8 => some (.pair .iy)
  | 0x16#8 => some .sp
  | 0x17#8 => some .pc
  | 0x18#8 => some (.shadow .af)
  | 0x19#8 => some (.shadow .bc)
  | 0x1A#8 => some (.shadow .de)
  | 0x1B#8 => some (.shadow .hl)
  | 0x20#8 => some .halt
  | 0x21#8 => some .iff
  | 0x22#8 => some .iff2
  | 0x23#8 => some .im
  | _ => none

/-- The flag a tag names in `fget` and `fset` (R57). -/
def flagOfTag (t : Byte) : Option FlagName :=
  match t with
  | 0x00#8 => some (.bit .c)
  | 0x01#8 => some (.bit .n)
  | 0x02#8 => some (.bit .pv)
  | 0x03#8 => some (.bit .f3)
  | 0x04#8 => some (.bit .h)
  | 0x05#8 => some (.bit .f5)
  | 0x06#8 => some (.bit .z)
  | 0x07#8 => some (.bit .s)
  | 0x08#8 => some .notZ
  | 0x09#8 => some .p
  | 0x0A#8 => some .v
  | _ => none

/-- The group a tag names in `gset` (R58). -/
def groupOfTag (t : Byte) : Option GroupName :=
  match t with
  | 0x00#8 => some .shn
  | 0x01#8 => some .hn
  | 0x02#8 => some .hnc
  | 0x03#8 => some .nc
  | _ => none

end Sys2Proof.Machine
end

