-- ==== Sys2Proof/Machine/Flags.lean ====
section
/-! DEFINITION. The flags view (10_state.md R24 to R29) and the flag computations (43_add_subtract.md R100, R106, R107;
44_parity_logic.md R120). -/

namespace Sys2Proof.Machine

open Sys2Proof

/-- The bit of `F` a flag is (R24). -/
def flagPos : FlagBit → Nat
  | .c => 0
  | .n => 1
  | .pv => 2
  | .f3 => 3
  | .h => 4
  | .f5 => 5
  | .z => 6
  | .s => 7

/-- The members of a group, as a mask over `F` (R28). -/
def groupMask : GroupName → Byte
  | .shn => 0x92
  | .hn => 0x12
  | .hnc => 0x13
  | .nc => 0x03

/-- The accumulator `A` (R24). -/
def RegFile.accu (rf : RegFile) : Byte := hiByte rf.af

/-- The flags byte `F` (R24). -/
def RegFile.flags (rf : RegFile) : Byte := loByte rf.af

/-- The carry flag `F.C` (R24). -/
def RegFile.carry (rf : RegFile) : Bool := rf.flags.getLsbD 0

/-- `F <- f`: the low byte of `AF`; `A` is kept (00_scope.md section 6). -/
def RegFile.writeFlags (rf : RegFile) (f : Byte) : RegFile := { rf with af := joinBytes rf.accu f }

/-- The flag write under an enable mask: `F <- (F & ~EN) | (NF & EN)` (R100). -/
def RegFile.mergeFlags (rf : RegFile) (en nf : Byte) : RegFile := rf.writeFlags ((rf.flags &&& ~~~en) ||| (nf &&& en))

/-- One flag bit of `AF` (R25). -/
def RegFile.readBit (rf : RegFile) (k : FlagBit) : Bool := rf.af.getLsbD (flagPos k)

/-- Writes one flag bit of `AF` and no other (R25). -/
def RegFile.writeBit (rf : RegFile) (k : FlagBit) (b : Bool) : RegFile :=
  { rf with af := if b then rf.af ||| (1#16 <<< flagPos k) else rf.af &&& ~~~(1#16 <<< flagPos k) }

/-- Reads a flag by name; `notZ` is the complement of bit 6, `P` and `V` are `PV` (R25 to R27). -/
def RegFile.readFlag (rf : RegFile) : FlagName → Bool
  | .bit k => rf.readBit k
  | .notZ => !rf.readBit .z
  | .p => rf.readBit .pv
  | .v => rf.readBit .pv

/-- Writes a flag by name (R25 to R27). -/
def RegFile.writeFlag (rf : RegFile) (k : FlagName) (b : Bool) : RegFile :=
  match k with
  | .bit k => rf.writeBit k b
  | .notZ => rf.writeBit .z (!b)
  | .p => rf.writeBit .pv b
  | .v => rf.writeBit .pv b

/-- Sets or clears every member of a group in one masked write of `AF` (R28). -/
def RegFile.writeGroup (rf : RegFile) (g : GroupName) (b : Bool) : RegFile :=
  { rf with af := if b then rf.af ||| (groupMask g).setWidth 16 else rf.af &&& ~~~((groupMask g).setWidth 16) }

/-- New values for the eight flags. -/
structure FlagVals where
  s : Bool
  z : Bool
  f5 : Bool
  h : Bool
  f3 : Bool
  pv : Bool
  n : Bool
  c : Bool
deriving DecidableEq, Repr

/-- A flag value at bit `k` of a byte. -/
def flagAt (k : Nat) (b : Bool) : Byte := (BitVec.ofBool b).setWidth 8 <<< k

/-- The byte of the flags in the layout of `F`, most significant first (R24). -/
def FlagVals.toByte (v : FlagVals) : Byte :=
  flagAt 7 v.s ||| flagAt 6 v.z ||| flagAt 5 v.f5 ||| flagAt 4 v.h ||| flagAt 3 v.f3 ||| flagAt 2 v.pv ||| flagAt 1 v.n |||
    flagAt 0 v.c

/-- Even parity: true iff the number of 1 bits is even (R120). -/
def evenParity (b : Byte) : Bool :=
  ((b.getLsbD 0).toNat + (b.getLsbD 1).toNat + (b.getLsbD 2).toNat + (b.getLsbD 3).toNat +
    (b.getLsbD 4).toNat + (b.getLsbD 5).toNat + (b.getLsbD 6).toNat + (b.getLsbD 7).toNat) % 2 == 0

/-- `hc_add8` (R107). -/
def halfCarryAdd8 (a b : Byte) : Bool := decide (0xF < (a &&& 0xF).toNat + (b &&& 0xF).toNat)

/-- `hc_sub8` (R107). -/
def halfCarrySub8 (a b : Byte) : Bool := decide ((a &&& 0xF).toNat < (b &&& 0xF).toNat)

/-- `hc_add16` (R107). -/
def halfCarryAdd16 (a b : Word) : Bool := decide (0xFFF < (a &&& 0xFFF).toNat + (b &&& 0xFFF).toNat)

/-- `hc_sub16` (R107). -/
def halfCarrySub16 (a b : Word) : Bool := decide ((a &&& 0xFFF).toNat < (b &&& 0xFFF).toNat)

/-- The exact signed result does not fit 8 bits (R106). -/
def outside8 (v : Int) : Bool := decide (v < -128 ∨ 127 < v)

/-- The exact signed result does not fit 16 bits (R106). -/
def outside16 (v : Int) : Bool := decide (v < -32768 ∨ 32767 < v)

/-- `ovf_add_8` (R106). -/
def overflowAdd8 (a b : Byte) : Bool := outside8 (sext8 a + sext8 b)

/-- `ovf_sub_8` (R106). -/
def overflowSub8 (a b : Byte) : Bool := outside8 (sext8 a - sext8 b)

/-- `ovf_add_16` (R106). -/
def overflowAdd16 (a b : Word) : Bool := outside16 (sext16 a + sext16 b)

/-- `ovf_sub_16` (R106). -/
def overflowSub16 (a b : Word) : Bool := outside16 (sext16 a - sext16 b)

/-- The bits `(i5, i3)` of a 16-bit result that go to `F5` and `F3` (R104). -/
def f35Bits : F35Source → Nat × Nat
  | .high => (13, 11)
  | .low => (5, 3)

end Sys2Proof.Machine
end

