-- ==== Sys2Proof/Machine/Ops.lean ====
section
/-! DEFINITION. The operations every meaning is built from: reading and writing registers by name (10_state.md R20, R21),
answering, raising an error (60_exceptions.md R164, R165: this block's way of taking an exception; there is no return from
one), the operand checks (R162), reset (40_register_access.md R72) and taking what the outside has sent (00_scope.md R1). -/

namespace Sys2Proof.Machine

open Sys2Proof

/-- `rd(T)`: the value read through a register name (R20); a boolean cell reads 0 or 1 (R17). -/
def RegFile.read (rf : RegFile) : RegName → Nat
  | .high p => (hiByte (rf.readPair p)).toNat
  | .low p => (loByte (rf.readPair p)).toNat
  | .pair p => (rf.readPair p).toNat
  | .sp => rf.sp.toNat
  | .pc => rf.pc.toNat
  | .shadow q => (rf.readShadow q).toNat
  | .i => rf.i.toNat
  | .r => rf.r.toNat
  | .halt => rf.halt.toNat
  | .iff => rf.iff.toNat
  | .iff2 => rf.iff2.toNat
  | .im => rf.im.toNat

/-- `wr(T, v)`: cut `v` to the width of `T`, and fold a half into its pair (R21). -/
def RegFile.write (rf : RegFile) (t : RegName) (v : Int) : RegFile :=
  match t with
  | .high p => rf.writePair p (joinBytes (byteOf v) (loByte (rf.readPair p)))
  | .low p => rf.writePair p (joinBytes (hiByte (rf.readPair p)) (byteOf v))
  | .pair p => rf.writePair p (wordOf v)
  | .sp => { rf with sp := wordOf v }
  | .pc => { rf with pc := wordOf v }
  | .shadow q => rf.writeShadow q (wordOf v)
  | .i => { rf with i := byteOf v }
  | .r => { rf with r := byteOf v }
  | .halt => { rf with halt := decide (v ≠ 0) }
  | .iff => { rf with iff := decide (v ≠ 0) }
  | .iff2 => { rf with iff2 := decide (v ≠ 0) }
  | .im => { rf with im := BitVec.ofInt 2 v }

/-- The status code of an error (R161, R162). -/
def ErrorKind.code : ErrorKind → Byte
  | .unknownRegister => 1
  | .operandOutOfRange => 2

/-- The `STATUS` field (R52). -/
def Status.code : Status → Byte
  | .done => 0
  | .error e => e.code

/-- The response word `STATUS RES` (R52). -/
def Response.word (r : Response) : ResponseWord :=
  (r.status.code.setWidth 32 <<< 24) ||| r.res.setWidth 32

/-- `return v`: status 0 and `v mod 0x1000000` (R52). -/
def Response.ofResult (v : Int) : Response := { status := .done, res := BitVec.ofInt 24 v }

/-- An error response: `RES` is 0 (R52, R161, R162). -/
def Response.ofError (e : ErrorKind) : Response := { status := .error e, res := 0 }

/-- The state after a command that ends with status 0: its cells are `rf`, its result is `v` (R2, R52). -/
def State.answered (s : State) (rf : RegFile) (v : Int) : State :=
  { s with rf := rf, response := some (Response.ofResult v) }

/-- The state after a command that ends in an error: only the response tells. No cell is written, nothing is saved, `PC`
stays (R2, R164, R165). -/
def State.raised (s : State) (e : ErrorKind) : State := { s with response := some (Response.ofError e) }

/-- A command ends with status 0. -/
def State.answer (s : State) (rf : RegFile) (v : Int) : Host.Outcome State Fault Refusal := .next (s.answered rf v)

/-- `raise`: this block's way of taking an exception. The next command is taken normally (R165). -/
def State.raise (s : State) (e : ErrorKind) : Host.Outcome State Fault Refusal := .next (s.raised e)

/-- `require lo <= x <= hi` before anything is written (00_scope.md section 6). -/
def State.require (s : State) (lo hi x : Int) (k : Host.Outcome State Fault Refusal) : Host.Outcome State Fault Refusal :=
  if lo ≤ x ∧ x ≤ hi then k else s.raise .operandOutOfRange

/-- An operand declared `0 .. 255` (R162). -/
def State.require8 (s : State) (x : Int) (k : Byte → Host.Outcome State Fault Refusal) : Host.Outcome State Fault Refusal :=
  s.require 0 255 x (k (byteOf x))

/-- An operand declared `0 .. 65535` (R162). -/
def State.require16 (s : State) (x : Int) (k : Word → Host.Outcome State Fault Refusal) : Host.Outcome State Fault Refusal :=
  s.require 0 65535 x (k (wordOf x))

/-- A tag that must name something (R161). -/
def State.requireName {α : Type} (s : State) (t : Option α) (k : α → Host.Outcome State Fault Refusal) :
    Host.Outcome State Fault Refusal :=
  match t with
  | some n => k n
  | none => s.raise .unknownRegister

/-- The cells after `reset` with reset option `ext` (R72): the old `power` never survives by itself (90_conflicts.md C4). -/
def State.resetCells (s : State) (ext : Bool) : RegFile := RegFile.powerOn (if ext then some s.extIn else none)

/-- The hardware reset input: the state of R31, `power` as driven (R180, D28). No command, so no response (DESIGN CHOICE, log 2).
DESIGN CHOICE (log 3): a value the pulse drives on EXT_IN goes to `power` only, and `extIn` keeps the value of the command taken
last; the spec does not say what EXT_IN holds after the pulse. -/
def State.hardReset (s : State) (ext : Option Ext) : State := { s with rf := RegFile.powerOn ext }

/-- The block takes the oldest input off the stream. -/
def State.taken (s : State) (rest : List Input) : State := { s with pending := rest }

/-- The block takes a command: EXT_IN holds the value presented beside it (R59, log 3). -/
def State.takeCommand (s : State) (rest : List Input) (ext : Ext) : State := { s.taken rest with extIn := ext }

/-- The outside sends an input to be taken before the ones already waiting. -/
def State.sendFirst (s : State) (inp : Input) : State := { s with pending := inp :: s.pending }

/-- The outside sends an input to be taken after the ones already waiting (R48). -/
def State.send (s : State) (inp : Input) : State := { s with pending := s.pending ++ [inp] }

end Sys2Proof.Machine
end

