-- ==== Sys2Proof/Machine/Arithmetic.lean ====
section
/-! DEFINITION. Add, subtract, increment, decrement (43_add_subtract.md). None has a carry input; none writes a register
other than `F`. -/

namespace Sys2Proof.Machine

open Sys2Proof

/-- `(a - b) mod 512`: the difference in 9-bit precision (R101). -/
def diff9 (a b : Byte) : BitVec 9 := a.setWidth 9 - b.setWidth 9

/-- The 9-bit sum (R103). -/
def sum9 (a b : Byte) : BitVec 9 := a.setWidth 9 + b.setWidth 9

/-- `(a - b) mod 131072`: the difference in 17-bit precision (R105). -/
def diff17 (a b : Word) : BitVec 17 := a.setWidth 17 - b.setWidth 17

/-- The 17-bit sum (R104). -/
def sum17 (a b : Word) : BitVec 17 := a.setWidth 17 + b.setWidth 17

/-- The 8-bit difference (R101). -/
def sub8 (a b : Byte) : Byte := (diff9 a b).setWidth 8

/-- The 8-bit sum (R103). -/
def add8 (a b : Byte) : Byte := (sum9 a b).setWidth 8

/-- The 16-bit difference (R105). -/
def sub16 (a b : Word) : Word := (diff17 a b).setWidth 16

/-- The 16-bit sum (R104). -/
def add16 (a b : Word) : Word := (sum17 a b).setWidth 16

/-- The new flags of an 8-bit subtraction (R101). -/
def sub8Flags (a b : Byte) : FlagVals where
  s := (sub8 a b).getLsbD 7
  z := sub8 a b == 0
  f5 := (sub8 a b).getLsbD 5
  h := halfCarrySub8 a b
  f3 := (sub8 a b).getLsbD 3
  pv := overflowSub8 a b
  n := true
  c := (diff9 a b).getLsbD 8

/-- The new flags of an 8-bit addition (R103). -/
def add8Flags (a b : Byte) : FlagVals where
  s := (add8 a b).getLsbD 7
  z := add8 a b == 0
  f5 := (add8 a b).getLsbD 5
  h := halfCarryAdd8 a b
  f3 := (add8 a b).getLsbD 3
  pv := overflowAdd8 a b
  n := false
  c := (sum9 a b).getLsbD 8

/-- The new flags of a 16-bit addition, under the parameter `F35_16` (R104). -/
def add16Flags (src : F35Source) (a b : Word) : FlagVals where
  s := (add16 a b).getLsbD 15
  z := add16 a b == 0
  f5 := (add16 a b).getLsbD (f35Bits src).1
  h := halfCarryAdd16 a b
  f3 := (add16 a b).getLsbD (f35Bits src).2
  pv := overflowAdd16 a b
  n := false
  c := (sum17 a b).getLsbD 16

/-- The new flags of a 16-bit subtraction, under the parameter `F35_16` (R105). -/
def sub16Flags (src : F35Source) (a b : Word) : FlagVals where
  s := (sub16 a b).getLsbD 15
  z := sub16 a b == 0
  f5 := (sub16 a b).getLsbD (f35Bits src).1
  h := halfCarrySub16 a b
  f3 := (sub16 a b).getLsbD (f35Bits src).2
  pv := overflowSub16 a b
  n := true
  c := (diff17 a b).getLsbD 16

/-- The subtraction of R101 with enable mask `en`. -/
def subtract8With (en : Byte) (x y : Int) (s : State) : Host.Outcome State Fault Refusal :=
  s.require8 x fun a => s.require8 y fun b => s.answer (s.rf.mergeFlags en (sub8Flags a b).toByte) (sub8 a b).toNat

/-- `subtract8 a, b, EN` (R101). -/
def execSubtract8 (en : Byte) (x y : Int) (s : State) : Host.Outcome State Fault Refusal :=
  subtract8With en x y s

/-- `subtract8VC a, b`: R101 with every flag enabled (R102, D16). -/
def execSubtract8VC (x y : Int) (s : State) : Host.Outcome State Fault Refusal :=
  subtract8With 0xFF x y s

/-- `add8 a, b, EN` (R103). -/
def execAdd8 (en : Byte) (x y : Int) (s : State) : Host.Outcome State Fault Refusal :=
  s.require8 x fun a => s.require8 y fun b => s.answer (s.rf.mergeFlags en (add8Flags a b).toByte) (add8 a b).toNat

/-- `add16 a, b` (R104). -/
def execAdd16 (x y : Int) (s : State) : Host.Outcome State Fault Refusal :=
  s.require16 x fun a => s.require16 y fun b =>
    s.answer (s.rf.writeFlags (add16Flags s.params.f35_16 a b).toByte) (add16 a b).toNat

/-- `subtract16 a, b` (R105). -/
def execSubtract16 (x y : Int) (s : State) : Host.Outcome State Fault Refusal :=
  s.require16 x fun a => s.require16 y fun b =>
    s.answer (s.rf.writeFlags (sub16Flags s.params.f35_16 a b).toByte) (sub16 a b).toNat

/-- `inc8 v` (R110). -/
def execInc8 (x : Int) (s : State) : Host.Outcome State Fault Refusal :=
  s.require8 x fun v => s.answer s.rf (v + 1).toNat

/-- `dec8 v` (R111). -/
def execDec8 (x : Int) (s : State) : Host.Outcome State Fault Refusal :=
  s.require8 x fun v => s.answer s.rf (v - 1).toNat

/-- `inc16 v` (R112). -/
def execInc16 (x : Int) (s : State) : Host.Outcome State Fault Refusal :=
  s.require16 x fun v => s.answer s.rf (v + 1).toNat

/-- `dec16 v` (R113). -/
def execDec16 (x : Int) (s : State) : Host.Outcome State Fault Refusal :=
  s.require16 x fun v => s.answer s.rf (v - 1).toNat

end Sys2Proof.Machine
end

