-- ==== Sys2Proof/Machine/Conversions.lean ====
section
/-! DEFINITION. Two's-complement conversions (42_conversions.md): no cell is read or written. -/

namespace Sys2Proof.Machine

open Sys2Proof

/-- `toSigned8 v` (R90). -/
def execToSigned8 (x : Int) (s : State) : Host.Outcome State Fault Refusal :=
  s.require8 x fun v => s.answer s.rf (sext8 v)

/-- `toSigned16 v` (R91). -/
def execToSigned16 (x : Int) (s : State) : Host.Outcome State Fault Refusal :=
  s.require16 x fun v => s.answer s.rf (sext16 v)

/-- `toUnsigned8 s` (R92). -/
def execToUnsigned8 (x : Int) (s : State) : Host.Outcome State Fault Refusal :=
  s.require (-128) 255 x (s.answer s.rf (byteOf x).toNat)

/-- `toUnsigned16 s` (R93; the range is the spec's decision D20). -/
def execToUnsigned16 (x : Int) (s : State) : Host.Outcome State Fault Refusal :=
  s.require (-32768) 65535 x (s.answer s.rf (wordOf x).toNat)

end Sys2Proof.Machine
end

