-- ==== Sys2Proof/Machine/FlagAccess.lean ====
section
/-! DEFINITION. Flag access: `fget`, `fset`, `gset` (41_flag_access.md). -/

namespace Sys2Proof.Machine

open Sys2Proof

/-- `fget k` (R80). -/
def execFget (sel : Byte) (s : State) : Host.Outcome State Fault Refusal :=
  s.requireName (flagOfTag sel) fun k => s.answer s.rf (s.rf.readFlag k).toNat

/-- `fset k, v` (R81): any non-zero value sets. -/
def execFset (sel : Byte) (x : Int) (s : State) : Host.Outcome State Fault Refusal :=
  s.requireName (flagOfTag sel) fun k => s.answer (s.rf.writeFlag k (decide (x ≠ 0))) 0

/-- `gset G, v` (R82). -/
def execGset (sel : Byte) (x : Int) (s : State) : Host.Outcome State Fault Refusal :=
  s.requireName (groupOfTag sel) fun g => s.answer (s.rf.writeGroup g (decide (x ≠ 0))) 0

end Sys2Proof.Machine
end

