-- ==== Sys2Proof/Machine/Logic.lean ====
section
/-! DEFINITION. Parity and the bitwise accumulator operations (44_parity_logic.md). -/

namespace Sys2Proof.Machine

open Sys2Proof

/-- `parity8 n` (R120). -/
def execParity8 (x : Int) (s : State) : Host.Outcome State Fault Refusal :=
  s.require8 x fun n => s.answer s.rf (evenParity n).toNat

/-- The flags of a bitwise result; `h` is 1 for AND and 0 for OR and XOR (R121 to R123). -/
def logicFlags (h : Bool) (res : Byte) : FlagVals where
  s := res.getLsbD 7
  z := res == 0
  f5 := res.getLsbD 5
  h := h
  f3 := res.getLsbD 3
  pv := evenParity res
  n := false
  c := false

/-- One write of the whole of `AF`: the new `A` and a fully new `F`; the result is the new `A` (R121 to R123, D23). -/
def State.answerLogic (s : State) (h : Bool) (res : Byte) : Host.Outcome State Fault Refusal :=
  s.answer { s.rf with af := joinBytes res (logicFlags h res).toByte } res.toNat

/-- `and_n n` (R121). -/
def execAndN (x : Int) (s : State) : Host.Outcome State Fault Refusal :=
  s.require8 x fun n => s.answerLogic true (s.rf.accu &&& n)

/-- `or_n n` (R122). -/
def execOrN (x : Int) (s : State) : Host.Outcome State Fault Refusal :=
  s.require8 x fun n => s.answerLogic false (s.rf.accu ||| n)

/-- `xor_n n` (R123). The same one twice gives the old `A` back, against a remark in R47 (log 12). -/
def execXorN (x : Int) (s : State) : Host.Outcome State Fault Refusal :=
  s.require8 x fun n => s.answerLogic false (s.rf.accu ^^^ n)

end Sys2Proof.Machine
end

