-- ==== Sys2Proof/Machine/PcF53.lean ====
section
/-! DEFINITION. The relative jump and the propagation of bits 5 and 3 (46_pc_and_f53.md). -/

namespace Sys2Proof.Machine

open Sys2Proof

/-- `(RF[PC] + sext_8(d)) mod 65536` (R150). -/
def jumpTarget (pc : Word) (d : Byte) : Word := wordOf (pc.toNat + sext8 d)

/-- `offsetPC d` (R150); the result is the new `PC` (D23). -/
def execOffsetPC (x : Int) (s : State) : Host.Outcome State Fault Refusal :=
  s.require8 x fun d => s.answer { s.rf with pc := jumpTarget s.rf.pc d } (jumpTarget s.rf.pc d).toNat

/-- `F <- (F & 0xD7) | (v & 0x28)` (R151, R152). -/
def RegFile.copyF5F3 (rf : RegFile) (v : Byte) : RegFile := rf.writeFlags ((rf.flags &&& 0xD7) ||| (v &&& 0x28))

/-- `setF5F3 v` (R151; the operand width is the spec's decision D21). -/
def execSetF5F3 (x : Int) (s : State) : Host.Outcome State Fault Refusal :=
  s.require8 x fun v => s.answer (s.rf.copyF5F3 v) 0

/-- `setF5F3FromAccumulator` (R152). -/
def execSetF5F3FromAccumulator (s : State) : Host.Outcome State Fault Refusal :=
  s.answer (s.rf.copyF5F3 s.rf.accu) 0

end Sys2Proof.Machine
end

