-- ==== Sys2Proof/Machine/RegisterAccess.lean ====
section
/-! DEFINITION. Register access: `get`, `set`, `reset` (40_register_access.md). -/

namespace Sys2Proof.Machine

open Sys2Proof

/-- `get T` (R70). -/
def execGet (sel : Byte) (s : State) : Host.Outcome State Fault Refusal :=
  s.requireName (regOfTag sel) fun t => s.answer s.rf (s.rf.read t)

/-- `set T, v` (R71). -/
def execSet (sel : Byte) (x : Int) (s : State) : Host.Outcome State Fault Refusal :=
  s.requireName (regOfTag sel) fun t => s.answer (s.rf.write t x) 0

/-- `reset` (R72). -/
def execReset (ext : Bool) (s : State) : Host.Outcome State Fault Refusal :=
  s.answer (s.resetCells ext) 0

end Sys2Proof.Machine
end

