-- ==== Sys2Proof/Machine/Rotates.lean ====
section
/-! DEFINITION. Rotates and shifts by one bit (45_rotate_shift.md). -/

namespace Sys2Proof.Machine

open Sys2Proof

/-- `((v << 1) & 0xFF) | b`: left by one, `b` enters at bit 0. -/
def shiftLeftIn (v : Byte) (b : Bool) : Byte := (v <<< 1) ||| (BitVec.ofBool b).setWidth 8

/-- `(v >> 1) | (b << 7)`: right by one, `b` enters at bit 7. -/
def shiftRightIn (v : Byte) (b : Bool) : Byte := (v >>> 1) ||| ((BitVec.ofBool b).setWidth 8 <<< 7)

/-- The new flags of the family: `S Z PV` from the result, `H` and `N` cleared, `C` the exit bit, `F5` and `F3` kept from the
old flags `f` (R130). -/
def rotateFlags (f res : Byte) (cout : Bool) : FlagVals where
  s := res.getLsbD 7
  z := res == 0
  f5 := f.getLsbD 5
  h := false
  f3 := f.getLsbD 3
  pv := evenParity res
  n := false
  c := cout

/-- Answers with `res` and writes the flags of the family (R130). -/
def State.answerRotate (s : State) (res : Byte) (cout : Bool) : Host.Outcome State Fault Refusal :=
  s.answer (s.rf.writeFlags (rotateFlags s.rf.flags res cout).toByte) res.toNat

/-- `rotateLeftCarry v` (R131). -/
def execRotateLeftCarry (x : Int) (s : State) : Host.Outcome State Fault Refusal :=
  s.require8 x fun v => s.answerRotate (shiftLeftIn v (v.getLsbD 7)) (v.getLsbD 7)

/-- `rotateLeft v`: the old carry enters (R132, R186). -/
def execRotateLeft (x : Int) (s : State) : Host.Outcome State Fault Refusal :=
  s.require8 x fun v => s.answerRotate (shiftLeftIn v s.rf.carry) (v.getLsbD 7)

/-- `rotateRightCarry v` (R133). -/
def execRotateRightCarry (x : Int) (s : State) : Host.Outcome State Fault Refusal :=
  s.require8 x fun v => s.answerRotate (shiftRightIn v (v.getLsbD 0)) (v.getLsbD 0)

/-- `rotateRight v`: the old carry enters (R134, R186). -/
def execRotateRight (x : Int) (s : State) : Host.Outcome State Fault Refusal :=
  s.require8 x fun v => s.answerRotate (shiftRightIn v s.rf.carry) (v.getLsbD 0)

/-- `shiftLeft v` (R135). -/
def execShiftLeft (x : Int) (s : State) : Host.Outcome State Fault Refusal :=
  s.require8 x fun v => s.answerRotate (shiftLeftIn v false) (v.getLsbD 7)

/-- `shiftLeftLogical v`: 1 enters (R136). -/
def execShiftLeftLogical (x : Int) (s : State) : Host.Outcome State Fault Refusal :=
  s.require8 x fun v => s.answerRotate (shiftLeftIn v true) (v.getLsbD 7)

/-- `shiftRight v`: bit 7 stays (R137). -/
def execShiftRight (x : Int) (s : State) : Host.Outcome State Fault Refusal :=
  s.require8 x fun v => s.answerRotate (shiftRightIn v (v.getLsbD 7)) (v.getLsbD 0)

/-- `shiftRightLogical v`: 0 enters (R138). -/
def execShiftRightLogical (x : Int) (s : State) : Host.Outcome State Fault Refusal :=
  s.require8 x fun v => s.answerRotate (shiftRightIn v false) (v.getLsbD 0)

end Sys2Proof.Machine
end

