-- ==== Sys2Proof/Machine/Dispatch.lean ====
section
/-! DEFINITION. The meaning of each operation of 30_encoding.md R55, one arm a constructor. -/

namespace Sys2Proof.Machine

open Sys2Proof

def exec (i : Instr) (s : State) : Host.Outcome State Fault Refusal :=
  match i with
  | .get sel => Sys2Proof.Machine.execGet sel s
  | .set sel x => Sys2Proof.Machine.execSet sel x s
  | .reset ext => Sys2Proof.Machine.execReset ext s
  | .fget sel => Sys2Proof.Machine.execFget sel s
  | .fset sel x => Sys2Proof.Machine.execFset sel x s
  | .gset sel x => Sys2Proof.Machine.execGset sel x s
  | .toSigned8 x => Sys2Proof.Machine.execToSigned8 x s
  | .toSigned16 x => Sys2Proof.Machine.execToSigned16 x s
  | .toUnsigned8 x => Sys2Proof.Machine.execToUnsigned8 x s
  | .toUnsigned16 x => Sys2Proof.Machine.execToUnsigned16 x s
  | .subtract8 en x y => Sys2Proof.Machine.execSubtract8 en x y s
  | .subtract8VC x y => Sys2Proof.Machine.execSubtract8VC x y s
  | .add8 en x y => Sys2Proof.Machine.execAdd8 en x y s
  | .add16 x y => Sys2Proof.Machine.execAdd16 x y s
  | .subtract16 x y => Sys2Proof.Machine.execSubtract16 x y s
  | .inc8 x => Sys2Proof.Machine.execInc8 x s
  | .dec8 x => Sys2Proof.Machine.execDec8 x s
  | .inc16 x => Sys2Proof.Machine.execInc16 x s
  | .dec16 x => Sys2Proof.Machine.execDec16 x s
  | .parity8 x => Sys2Proof.Machine.execParity8 x s
  | .and_n x => Sys2Proof.Machine.execAndN x s
  | .or_n x => Sys2Proof.Machine.execOrN x s
  | .xor_n x => Sys2Proof.Machine.execXorN x s
  | .rotateLeftCarry x => Sys2Proof.Machine.execRotateLeftCarry x s
  | .rotateLeft x => Sys2Proof.Machine.execRotateLeft x s
  | .rotateRightCarry x => Sys2Proof.Machine.execRotateRightCarry x s
  | .rotateRight x => Sys2Proof.Machine.execRotateRight x s
  | .shiftLeft x => Sys2Proof.Machine.execShiftLeft x s
  | .shiftLeftLogical x => Sys2Proof.Machine.execShiftLeftLogical x s
  | .shiftRight x => Sys2Proof.Machine.execShiftRight x s
  | .shiftRightLogical x => Sys2Proof.Machine.execShiftRightLogical x s
  | .offsetPC x => Sys2Proof.Machine.execOffsetPC x s
  | .setF5F3 x => Sys2Proof.Machine.execSetF5F3 x s
  | .setF5F3FromAccumulator => Sys2Proof.Machine.execSetF5F3FromAccumulator s

end Sys2Proof.Machine
end

