-- ==== Sys2Proof/Machine/Step.lean ====
section
/-! DEFINITION. One step: the block takes the oldest input and performs it whole (00_scope.md R1, R2; 70_reset_and_hazards.md
R190). -/

namespace Sys2Proof.Machine

open Sys2Proof

/-- One step. With nothing sent, nothing changes (R1, R33). A word whose `OP` selects no operation is refused (R60). -/
def step (s : State) : Host.Outcome State Fault Refusal :=
  match s.pending with
  | [] => .next s
  | .resetLine ext :: rest => .next ((s.taken rest).hardReset ext)
  | .command w ext :: rest =>
    match decode w with
    | .instr i => exec i (s.takeCommand rest ext)
    | .undefinedOp op => .refused (.undefinedOp op)

/-- `s` with the command word `w` (bits from `nbits` up zero) sent so that the next step takes it (log 1); beside it
the EXT_IN value the field `extIn` holds (log 3). -/
def State.withFetchWord (s : State) (nbits w : Nat) : State :=
  s.sendFirst (.command (BitVec.ofNat 64 (w % 2 ^ nbits)) s.extIn)

end Sys2Proof.Machine
end

