-- ==== Sys2Proof/Machine/Assembler.lean ====
section
/-! DEFINITION. The assembler's view of the commands: the text syntax of 30_encoding.md R62 and the pseudo-instructions of R63.
The machine never uses it: a command reaches the block as a word. -/

namespace Sys2Proof.Machine

open Sys2Proof

/-- The named constant `ALL` (R63). -/
def enableAll : Byte := 0xFF

/-- `subtract8 a, b` without a mask (R63). -/
def pseudoSubtract8 (a b : Int) : Instr := .subtract8 enableAll a b

/-- `add8 a, b` without a mask (R63). -/
def pseudoAdd8 (a b : Int) : Instr := .add8 enableAll a b

/-- The bit of `F` a flag name stands for (R57). -/
def flagNameBit : FlagName → Nat
  | .bit k => flagPos k
  | .notZ => flagPos .z
  | .p => flagPos .pv
  | .v => flagPos .pv

/-- `ALL` with the bit of each named flag cleared (R63). -/
def enableWithout : List FlagName → Byte
  | [] => enableAll
  | k :: ks => enableWithout ks &&& ~~~(1#8 <<< flagNameBit k)

/-- `subtract8 a, b, K=0, ...` (R63). -/
def pseudoSubtract8Without (a b : Int) (ks : List FlagName) : Instr := .subtract8 (enableWithout ks) a b

/-- `construct`: `reset` (or `reset ext`), then one `set` per entry in the order written (R63; 40_register_access.md R73).
An entry whose tag names no register becomes a `set` that is answered `UnknownRegister`. -/
def construct (ext : Bool) (entries : List (Byte × Int)) : List Instr :=
  .reset ext :: entries.map fun e => .set e.1 e.2

/-- A space or a tab. -/
def isBlank (c : Char) : Bool := c == ' ' || c == '\t'

/-- Without blanks at either end. -/
def trimBlanks (cs : List Char) : List Char := ((cs.dropWhile isBlank).reverse.dropWhile isBlank).reverse

/-- The pieces between the separators. -/
def splitAt (sep : Char) : List Char → List (List Char)
  | [] => [[]]
  | c :: cs =>
    match splitAt sep cs with
    | [] => [[c]]
    | p :: ps => if c == sep then [] :: p :: ps else (c :: p) :: ps

/-- The value of a digit in a base up to sixteen. -/
def digitValue (base : Nat) (c : Char) : Option Nat :=
  let v := if '0' ≤ c ∧ c ≤ '9' then some (c.toNat - 48)
    else if 'A' ≤ c ∧ c ≤ 'F' then some (c.toNat - 55)
    else if 'a' ≤ c ∧ c ≤ 'f' then some (c.toNat - 87)
    else none
  v.filter (· < base)

/-- The number the digits write, most significant first, continuing from `acc`. -/
def digitsValue (base : Nat) : Nat → List Char → Option Nat
  | acc, [] => some acc
  | acc, c :: cs => (digitValue base c).bind fun d => digitsValue base (acc * base + d) cs

/-- Decimal, or hexadecimal with `0x` (R62). -/
def parseNat : List Char → Option Nat
  | [] => none
  | ['0', 'x'] => none
  | '0' :: 'x' :: cs => digitsValue 16 0 cs
  | cs => digitsValue 10 0 cs

/-- A number with an optional leading minus sign (R62). -/
def parseNumber : List Char → Option Int
  | '-' :: cs => (parseNat cs).map fun n => -(n : Int)
  | cs => (parseNat cs).map fun n => (n : Int)

/-- The register names as R56 writes them. -/
def regNames : List (List Char × Byte) :=
  [("A".toList, 0x00), ("F".toList, 0x01), ("B".toList, 0x02), ("C".toList, 0x03), ("D".toList, 0x04), ("E".toList, 0x05),
    ("H".toList, 0x06), ("L".toList, 0x07), ("IXH".toList, 0x08), ("IXL".toList, 0x09), ("IYH".toList, 0x0A),
    ("IYL".toList, 0x0B), ("I".toList, 0x0C), ("R".toList, 0x0D)] ++
  [("AF".toList, 0x10), ("BC".toList, 0x11), ("DE".toList, 0x12), ("HL".toList, 0x13), ("IX".toList, 0x14),
    ("IY".toList, 0x15), ("SP".toList, 0x16), ("PC".toList, 0x17), ("AF'".toList, 0x18), ("BC'".toList, 0x19),
    ("DE'".toList, 0x1A), ("HL'".toList, 0x1B), ("HALT".toList, 0x20), ("IFF".toList, 0x21), ("IFF2".toList, 0x22),
    ("IM".toList, 0x23)]

/-- The flag names as R57 writes them. -/
def flagNames : List (List Char × Byte) :=
  [("C".toList, 0x00), ("N".toList, 0x01), ("PV".toList, 0x02), ("F3".toList, 0x03), ("H".toList, 0x04), ("F5".toList, 0x05),
    ("Z".toList, 0x06), ("S".toList, 0x07), ("notZ".toList, 0x08), ("P".toList, 0x09), ("V".toList, 0x0A)]

/-- The group names as R58 writes them. -/
def groupNames : List (List Char × Byte) :=
  [("SHN".toList, 0x00), ("HN".toList, 0x01), ("HNC".toList, 0x02), ("NC".toList, 0x03)]

/-- An 8-bit number. -/
def parseByte (cs : List Char) : Option Byte :=
  ((parseNat cs).filter (· < 256)).map (BitVec.ofNat 8)

/-- A tag operand: a name of the table, or (DEDUCED from 95_test_vectors.md section 2.11, log 10) the tag's number. -/
def parseTag (names : List (List Char × Byte)) (cs : List Char) : Option Byte := names.lookup cs <|> parseByte cs

/-- The operations of format V by mnemonic. -/
def unaryOps : List (List Char × (Int → Instr)) :=
  [("toSigned8".toList, .toSigned8), ("toSigned16".toList, .toSigned16), ("toUnsigned8".toList, .toUnsigned8),
    ("toUnsigned16".toList, .toUnsigned16), ("inc8".toList, .inc8), ("dec8".toList, .dec8), ("inc16".toList, .inc16),
    ("dec16".toList, .dec16), ("parity8".toList, .parity8), ("and_n".toList, .and_n), ("or_n".toList, .or_n),
    ("xor_n".toList, .xor_n)] ++
  [("rotateLeftCarry".toList, .rotateLeftCarry), ("rotateLeft".toList, .rotateLeft),
    ("rotateRightCarry".toList, .rotateRightCarry), ("rotateRight".toList, .rotateRight), ("shiftLeft".toList, .shiftLeft),
    ("shiftLeftLogical".toList, .shiftLeftLogical), ("shiftRight".toList, .shiftRight),
    ("shiftRightLogical".toList, .shiftRightLogical), ("offsetPC".toList, .offsetPC), ("setF5F3".toList, .setF5F3)]

/-- The operations of format VV by mnemonic. -/
def binaryOps : List (List Char × (Int → Int → Instr)) :=
  [("subtract8VC".toList, .subtract8VC), ("add16".toList, .add16), ("subtract16".toList, .subtract16)]

/-- The mask operand `EN=0x..` (R62). -/
def parseMask : List Char → Option Byte
  | 'E' :: 'N' :: '=' :: cs => parseByte cs
  | _ => none

/-- The toggle operand `K=0` with `K` a flag name (R63). -/
def parseToggle (cs : List Char) : Option FlagName :=
  match splitAt '=' cs with
  | [k, ['0']] => (flagNames.lookup k).bind flagOfTag
  | _ => none

/-- A command from its mnemonic and operands, a pseudo-instruction expanded (R62, R63). -/
def assembleOps (m : List Char) (ops : List (List Char)) : Option Instr :=
  match ops with
  | [] =>
    if m == "setF5F3FromAccumulator".toList then some .setF5F3FromAccumulator
    else if m == "reset".toList then some (.reset false)
    else none
  | [a] =>
    if m == "get".toList then (parseTag regNames a).map .get
    else if m == "fget".toList then (parseTag flagNames a).map .fget
    else if m == "reset".toList then (if a == "ext".toList then some (.reset true) else none)
    else (unaryOps.lookup m).bind fun f => (parseNumber a).map f
  | a :: b :: more =>
    if m == "subtract8".toList then
      (parseNumber a).bind fun x => (parseNumber b).bind fun y =>
        match more with
        | [] => some (pseudoSubtract8 x y)
        | k :: ks =>
          match parseMask k, ks with
          | some en, [] => some (.subtract8 en x y)
          | some _, _ => none
          | none, _ => ((k :: ks).mapM parseToggle).map (pseudoSubtract8Without x y)
    else if m == "add8".toList then
      (parseNumber a).bind fun x => (parseNumber b).bind fun y =>
        match more with
        | [] => some (pseudoAdd8 x y)
        | [k] => (parseMask k).map fun en => .add8 en x y
        | _ => none
    else match more with
      | [] =>
        if m == "set".toList then (parseTag regNames a).bind fun t => (parseNumber b).map (.set t)
        else if m == "fset".toList then (parseTag flagNames a).bind fun t => (parseNumber b).map (.fset t)
        else if m == "gset".toList then (parseTag groupNames a).bind fun t => (parseNumber b).map (.gset t)
        else (binaryOps.lookup m).bind fun f => (parseNumber a).bind fun x => (parseNumber b).map (f x)
      | _ => none

/-- The operand list of a line: the pieces between commas. -/
def operandList (cs : List Char) : List (List Char) :=
  match trimBlanks cs with
  | [] => []
  | t => (splitAt ',' t).map trimBlanks

/-- One line: a comment runs from `;`; a line without a command gives none; a command whose operands do not fit the command
word is no line of the language (R62). -/
def assembleLine (line : String) : Option (List Instr) :=
  let text := trimBlanks (line.toList.takeWhile (· != ';'))
  if text.isEmpty then some []
  else ((assembleOps (text.takeWhile fun c => !isBlank c) (operandList (text.dropWhile fun c => !isBlank c))).filter
    Instr.wf).map fun i => [i]

end Sys2Proof.Machine
end

