-- ==== Sys2Proof/Safety.lean ====
section
/-! DEFINITION. What a safe run is: every command sent selects an operation, so no step is refused (30_encoding.md R60), and
the response on the port is one the spec allows (R52). -/

namespace Sys2Proof.Machine

open Sys2Proof

/-- The input is a reset pulse, or a command whose `OP` is in R55. -/
def Input.defined : Input → Bool
  | .resetLine _ => true
  | .command w _ =>
    match decode w with
    | .instr _ => true
    | .undefinedOp _ => false

/-- Everything sent and not yet taken has a meaning. -/
def State.safe (s : State) : Bool := s.pending.all Input.defined

/-- A response the spec allows (R52): `RES` is 0 unless the status is done, and `RES` is a value some operation can return:
a 16-bit signed or unsigned number. -/
def Response.wf (r : Response) : Bool :=
  (r.status == .done || r.res == 0) && decide (-32768 ≤ r.res.toInt ∧ r.res.toInt ≤ 65535)

/-- The response last given, if there is one, is one the spec allows. -/
def State.responseWf (s : State) : Bool := s.response.all Response.wf

end Sys2Proof.Machine
end

