-- ==== Sys2Proof/Certificates/Slice0/Obligations.lean ====
section
/-! DEFINITION. The statements. Each is written in the spec's own terms (integers, bit numbers, tag numbers), beside the model's
definitions and not through them. The block has no memory (20_memory.md R40), so a frame speaks of the nineteen cells, the
response, the stream, EXT_IN and the parameters, which is all there is. -/

open Sys2Proof Sys2Proof.Machine

namespace Sys2Proof.Claims

/-- The command ends with status 0 and result `v`, the cells are `rf` after it, and nothing else has changed. -/
def Answers (i : Instr) (s : State) (rf : RegFile) (v : Int) : Prop :=
  exec i s = .next { s with rf := rf, response := some { status := .done, res := BitVec.ofInt 24 v } }

/-- The command ends in the error `e`, and nothing but the response has changed. -/
def Errs (i : Instr) (s : State) (e : ErrorKind) : Prop :=
  exec i s = .next { s with response := some { status := .error e, res := 0 } }

/-- `lo <= x <= hi`. -/
abbrev within (lo hi x : Int) : Prop := lo ≤ x ∧ x ≤ hi

/-- Bit `k` of a non-negative integer. -/
def bitOf (v : Int) (k : Nat) : Bool := decide (v / 2 ^ k % 2 = 1)

/-- The number of 1 bits among the low eight is even. -/
def evenBits (v : Int) : Bool := decide (((List.range 8).map fun k => v / 2 ^ k % 2).sum % 2 = 0)

/-- An unsigned `w`-bit value read as signed. -/
def signedOf (w : Nat) (v : Int) : Int := if 2 ^ (w - 1) ≤ v then v - 2 ^ w else v

/-- The exact result does not fit `w` bits, read as signed. -/
def overflows (w : Nat) (v : Int) : Bool := decide (v < -2 ^ (w - 1) ∨ 2 ^ (w - 1) ≤ v)

/-- Bit `k` of `AF`: for `k < 8` a flag (R24). -/
def flag (rf : RegFile) (k : Nat) : Bool := rf.af.getLsbD k

/-- The accumulator as a number. -/
def accu (rf : RegFile) : Nat := rf.af.toNat / 256

/-- The cells with `A = a` and `F = f`. -/
def withAF (rf : RegFile) (a : Int) (f : Byte) : RegFile := { rf with af := BitVec.ofInt 16 (a * 256 + f.toNat) }

/-- The cells with `F = f`; `A` is kept. -/
def withF (rf : RegFile) (f : Byte) : RegFile := withAF rf (accu rf) f

/-- The eight flags of `f`, in the order of R24. -/
def FlagsAre (f : Byte) (s z f5 h f3 pv n c : Bool) : Prop :=
  f.getLsbD 7 = s ∧ f.getLsbD 6 = z ∧ f.getLsbD 5 = f5 ∧ f.getLsbD 4 = h ∧ f.getLsbD 3 = f3 ∧ f.getLsbD 2 = pv ∧
    f.getLsbD 1 = n ∧ f.getLsbD 0 = c

/-- The new value where the enable mask has bit `k`, the kept flag elsewhere (R100). -/
def pick (en : Byte) (rf : RegFile) (k : Nat) (new : Bool) : Bool := if en.getLsbD k then new else flag rf k

/-- The cells all zero or false, and the given `power` (the table of R31). -/
def zeroCells (ext : Option Ext) : RegFile :=
  { af := 0, bc := 0, de := 0, hl := 0, ix := 0, iy := 0, sp := 0, pc := 0, afShadow := 0, bcShadow := 0, deShadow := 0,
    hlShadow := 0, i := 0, r := 0, halt := false, iff := false, iff2 := false, im := 0, power := ext }

/-- The 16-bit cell of a tag `0x10 .. 0x1B` (R56). -/
def cell16 (rf : RegFile) : Nat → Option Word
  | 0x10 => some rf.af
  | 0x11 => some rf.bc
  | 0x12 => some rf.de
  | 0x13 => some rf.hl
  | 0x14 => some rf.ix
  | 0x15 => some rf.iy
  | 0x16 => some rf.sp
  | 0x17 => some rf.pc
  | 0x18 => some rf.afShadow
  | 0x19 => some rf.bcShadow
  | 0x1A => some rf.deShadow
  | 0x1B => some rf.hlShadow
  | _ => none

/-- The cells with the 16-bit cell of a tag replaced (R56). -/
def setCell16 (rf : RegFile) (w : Word) : Nat → RegFile
  | 0x10 => { rf with af := w }
  | 0x11 => { rf with bc := w }
  | 0x12 => { rf with de := w }
  | 0x13 => { rf with hl := w }
  | 0x14 => { rf with ix := w }
  | 0x15 => { rf with iy := w }
  | 0x16 => { rf with sp := w }
  | 0x17 => { rf with pc := w }
  | 0x18 => { rf with afShadow := w }
  | 0x19 => { rf with bcShadow := w }
  | 0x1A => { rf with deShadow := w }
  | 0x1B => { rf with hlShadow := w }
  | _ => rf

/-- A boolean as 0 or 1. -/
def zeroOne (b : Bool) : Int := if b then 1 else 0

/-- What `get` answers for a tag, absent where the tag names no register. For tags below 0x0C an even tag is a high half, an odd
tag a low half, and the cell is tag `0x10 + (tag >> 1)` (R20, R56). -/
def registerValue (rf : RegFile) (tag : Nat) : Option Int :=
  if tag < 0x0C then
    (cell16 rf (0x10 + tag / 2)).map fun w => if tag % 2 = 0 then ((w.toNat / 256 : Nat) : Int) else ((w.toNat % 256 : Nat) : Int)
  else if tag = 0x0C then some rf.i.toNat
  else if tag = 0x0D then some rf.r.toNat
  else if tag = 0x20 then some (zeroOne rf.halt)
  else if tag = 0x21 then some (zeroOne rf.iff)
  else if tag = 0x22 then some (zeroOne rf.iff2)
  else if tag = 0x23 then some rf.im.toNat
  else (cell16 rf tag).map fun w => (w.toNat : Int)

/-- The cells after `set` with a tag and a value, absent where the tag names no register (R21, R56). -/
def registerWritten (rf : RegFile) (tag : Nat) (x : Int) : Option RegFile :=
  if tag < 0x0C then
    (cell16 rf (0x10 + tag / 2)).map fun w =>
      setCell16 rf (BitVec.ofInt 16 (if tag % 2 = 0 then x % 256 * 256 + w.toNat % 256 else w.toNat / 256 * 256 + x % 256))
        (0x10 + tag / 2)
  else if tag = 0x0C then some { rf with i := BitVec.ofInt 8 (x % 256) }
  else if tag = 0x0D then some { rf with r := BitVec.ofInt 8 (x % 256) }
  else if tag = 0x20 then some { rf with halt := decide (x ≠ 0) }
  else if tag = 0x21 then some { rf with iff := decide (x ≠ 0) }
  else if tag = 0x22 then some { rf with iff2 := decide (x ≠ 0) }
  else if tag = 0x23 then some { rf with im := BitVec.ofInt 2 (x % 4) }
  else (cell16 rf tag).map fun _ => setCell16 rf (BitVec.ofInt 16 (x % 65536)) tag

/-- What `set tag, x` then `get tag` answers: `x` cut to the width of the register (R21). -/
def cutToWidth (tag : Nat) (x : Int) : Int :=
  if tag ≤ 0x0D then x % 256
  else if tag = 0x23 then x % 4
  else if 0x20 ≤ tag then zeroOne (decide (x ≠ 0))
  else x % 65536

/-- Two register tags name registers that share bits: the same one, or a pair and one of its halves (R23, R56). -/
def shareBits (t u : Nat) : Bool :=
  t == u || (t < 0x0C && u == 0x10 + t / 2) || (u < 0x0C && t == 0x10 + u / 2)

/-- The bit of `F` a flag tag stands for (R57). -/
def flagTagBit (tag : Nat) : Option Nat :=
  if tag ≤ 7 then some tag else if tag = 8 then some 6 else if tag = 9 ∨ tag = 10 then some 2 else none

/-- The members of the group of a tag, as bits of `F` (R28, R58). -/
def groupBits : Nat → Option (List Nat)
  | 0 => some [7, 4, 1]
  | 1 => some [4, 1]
  | 2 => some [4, 1, 0]
  | 3 => some [1, 0]
  | _ => none

/-- The tag of the command names nothing in its name space (the table of R161). -/
def BadTag : Instr → Prop
  | .get t | .set t _ => 0x0E ≤ t.toNat ∧ t.toNat ≤ 0x0F ∨ 0x1C ≤ t.toNat ∧ t.toNat ≤ 0x1F ∨ 0x24 ≤ t.toNat
  | .fget t | .fset t _ => 0x0B ≤ t.toNat
  | .gset t _ => 0x04 ≤ t.toNat
  | _ => False

/-- Every operand of the command is in its declared range (the table of R162). -/
def OperandsInRange : Instr → Prop
  | .toSigned8 x | .inc8 x | .dec8 x | .parity8 x | .and_n x | .or_n x | .xor_n x | .rotateLeftCarry x | .rotateLeft x
  | .rotateRightCarry x | .rotateRight x | .shiftLeft x | .shiftLeftLogical x | .shiftRight x | .shiftRightLogical x
  | .offsetPC x | .setF5F3 x => within 0 255 x
  | .toSigned16 x | .inc16 x | .dec16 x => within 0 65535 x
  | .toUnsigned8 x => within (-128) 255 x
  | .toUnsigned16 x => within (-32768) 65535 x
  | .subtract8 _ x y | .subtract8VC x y | .add8 _ x y => within 0 255 x ∧ within 0 255 y
  | .add16 x y | .subtract16 x y => within 0 65535 x ∧ within 0 65535 y
  | .get _ | .set _ _ | .reset _ | .fget _ | .fset _ _ | .gset _ _ | .setF5F3FromAccumulator => True

/-- The flags a command may write, as a mask over `F` (the table of R30). -/
def mayWriteFlags : Instr → Byte
  | .set t _ => if t = 0x01 ∨ t = 0x10 then 0xFF else 0
  | .reset _ | .subtract8VC _ _ | .add16 _ _ | .subtract16 _ _ | .and_n _ | .or_n _ | .xor_n _ => 0xFF
  | .fset t _ => ((flagTagBit t.toNat).map fun k => 1#8 <<< k).getD 0
  | .gset t _ => ((groupBits t.toNat).map fun ks => ks.foldl (fun m k => m ||| (1#8 <<< k)) 0#8).getD 0
  | .subtract8 en _ _ | .add8 en _ _ => en
  | .rotateLeftCarry _ | .rotateLeft _ | .rotateRightCarry _ | .rotateRight _ | .shiftLeft _ | .shiftLeftLogical _
  | .shiftRight _ | .shiftRightLogical _ => 0xD7
  | .setF5F3 _ | .setF5F3FromAccumulator => 0x28
  | .get _ | .fget _ | .toSigned8 _ | .toSigned16 _ | .toUnsigned8 _ | .toUnsigned16 _ | .inc8 _ | .dec8 _ | .inc16 _
  | .dec16 _ | .parity8 _ | .offsetPC _ => 0

/-- The flags a completed command leaves at a constant (the 0 and 1 entries of the table of R30). -/
def constantFlags : Instr → List (Nat × Bool)
  | .reset _ => [(7, false), (6, false), (5, false), (4, false), (3, false), (2, false), (1, false), (0, false)]
  | .subtract8 en _ _ => if en.getLsbD 1 then [(1, true)] else []
  | .add8 en _ _ => if en.getLsbD 1 then [(1, false)] else []
  | .subtract8VC _ _ | .subtract16 _ _ => [(1, true)]
  | .add16 _ _ => [(1, false)]
  | .and_n _ => [(4, true), (1, false), (0, false)]
  | .or_n _ | .xor_n _ => [(4, false), (1, false), (0, false)]
  | .rotateLeftCarry _ | .rotateLeft _ | .rotateRightCarry _ | .rotateRight _ | .shiftLeft _ | .shiftLeftLogical _
  | .shiftRight _ | .shiftRightLogical _ => [(4, false), (1, false)]
  | _ => []

/-- The commands whose result reads a flag (R30). -/
def readsFlags : Instr → Bool
  | .fget _ | .rotateLeft _ | .rotateRight _ => true
  | .get t => t == 0x01 || t == 0x10
  | _ => false

/-- The commands without a result (R55): their `RES` is 0. -/
def hasNoResult : Instr → Bool
  | .set _ _ | .reset _ | .fset _ _ | .gset _ _ | .setF5F3 _ | .setF5F3FromAccumulator => true
  | _ => false

/-- The commands that can answer a negative number (R52). -/
def mayAnswerNegative : Instr → Bool
  | .toSigned8 _ | .toSigned16 _ => true
  | _ => false

/-- An `OP` value outside R55, as R60 lists them. -/
def UndefinedOp (op : Nat) : Prop :=
  op = 0x00 ∨ within 0x04 0x07 op ∨ within 0x0B 0x0F op ∨ within 0x14 0x1F op ∨ within 0x25 0x27 op ∨ within 0x2C 0x2F op ∨
    within 0x34 0x3F op ∨ within 0x48 0x4F op ∨ within 0x53 0xFF op

/-- The state with another value in the slot `power`. -/
def withPower (s : State) (p : Option Ext) : State := { s with rf := { s.rf with power := p } }

/-- A rotate or shift completes with result `r` and exit bit `cout`, and the flags of R130. -/
def RotateAnswers (i : Instr) (s : State) (r cout : Int) : Prop :=
  ∃ f, Answers i s (withF s.rf f) r ∧
    FlagsAre f (bitOf r 7) (decide (r = 0)) (flag s.rf 5) false (flag s.rf 3) (evenBits r) false (decide (cout = 1))

/-- An accumulator operation completes with the new `A = r`, `H = h` and the flags of R121 to R123. -/
def LogicAnswers (i : Instr) (s : State) (r : Int) (h : Bool) : Prop :=
  ∃ f, Answers i s (withAF s.rf r f) r ∧
    FlagsAre f (bitOf r 7) (decide (r = 0)) (bitOf r 5) h (bitOf r 3) (evenBits r) false false

/-- An 8-bit subtraction under an enable mask completes (R101). -/
def SubtractAnswers (i : Instr) (en : Byte) (a b : Int) (s : State) : Prop :=
  ∃ f, Answers i s (withF s.rf f) ((a - b) % 256) ∧
    FlagsAre f (pick en s.rf 7 (bitOf ((a - b) % 256) 7)) (pick en s.rf 6 (decide ((a - b) % 256 = 0)))
      (pick en s.rf 5 (bitOf ((a - b) % 256) 5)) (pick en s.rf 4 (decide (b % 16 > a % 16)))
      (pick en s.rf 3 (bitOf ((a - b) % 256) 3)) (pick en s.rf 2 (overflows 8 (signedOf 8 a - signedOf 8 b)))
      (pick en s.rf 1 true) (pick en s.rf 0 (decide (a < b)))

/-- The bit of a 16-bit result that goes to `F5`, under the parameter `F35_16` (R104). -/
def f5Bit (s : State) : Nat := if s.params.f35_16 = .high then 13 else 5

/-- The bit of a 16-bit result that goes to `F3`, under the parameter `F35_16` (R104). -/
def f3Bit (s : State) : Nat := if s.params.f35_16 = .high then 11 else 3

/-- `n` commands of one operation, each fed the result of the one before; absent if one is not answered with status 0. -/
def chain (op : Int → Instr) : Nat → State → Int → Option (State × Int)
  | 0, s, v => some (s, v)
  | n + 1, s, v =>
    match exec (op v) s with
    | .next t =>
      match t.response with
      | some { status := .done, res := r } => chain op n t r.toInt
      | _ => none
    | _ => none

end Sys2Proof.Claims

open Sys2Proof.Claims

/-- Words written out from R50 and R55 to R58 decode to the commands they stand for. The words are the spec's
decisions D2, D4, D5, D6, D10. -/
def Obligations.WrittenWordsDecode : Prop :=
  decode 0x0106000000000000 = .instr (.get 0x06) ∧
  decode 0x021100ABCD000000 = .instr (.set 0x11 0xABCD) ∧
  decode 0x0301000000000000 = .instr (.reset true) ∧
  decode 0x0806000000000000 = .instr (.fget 0x06) ∧
  decode 0x090AFFFFFF000000 = .instr (.fset 0x0A (-1)) ∧
  decode 0x0A01000000000000 = .instr (.gset 0x01 0) ∧
  decode 0x1200FFFF7F000000 = .instr (.toUnsigned8 (-129)) ∧
  decode 0x20FF000010000001 = .instr (.subtract8 0xFF 0x10 0x01) ∧
  decode 0x2400003800001000 = .instr (.subtract16 0x3800 0x1000) ∧
  decode 0x31000000F0000000 = .instr (.and_n 0xF0) ∧
  decode 0x4700000081000000 = .instr (.shiftRightLogical 0x81) ∧
  decode 0x5000000002000000 = .instr (.offsetPC 2) ∧
  decode 0x5200000000000000 = .instr .setF5F3FromAccumulator

/-- Every instruction whose operands fit their fields is read back from its command word, all operands included. The
words are the spec's decisions D2, D4, D10. -/
def Obligations.DecodeOfEncode : Prop := ∀ i : Instr, i.wf = true → decode (encode i) = .instr i

/-- A word that decodes is, on the bits its format reads, the word of the instruction it decodes to (R53, the spec's
decision D9). -/
def Obligations.EncodeOfDecode : Prop :=
  ∀ (w : CommandWord) (i : Instr), decode w = .instr i → i.wf = true ∧ encode i = w &&& i.format.mask

/-- A field the format does not read is ignored, whatever it holds (R53, the spec's decision D9). -/
def Obligations.UnreadFieldsAreIgnored : Prop :=
  ∀ (w w' : CommandWord) (i : Instr), decode w = .instr i → w &&& i.format.mask = w' &&& i.format.mask → decode w' = .instr i

/-- R60: exactly the words with an `OP` outside the table are invalid; a step that takes one is refused, and no other is. That
a model refuses them is the spec's decision D8. -/
def Obligations.UndefinedOpsAreRefused : Prop :=
  (∀ w : CommandWord, UndefinedOp (w.toNat / 2 ^ 56) ↔ ∃ op, decode w = .undefinedOp op) ∧
  ∀ (s : State) (w : CommandWord) (e : Ext) (rest : List Input), s.pending = .command w e :: rest →
    (UndefinedOp (w.toNat / 2 ^ 56) → step s = .refused (.undefinedOp (BitVec.ofNat 8 (w.toNat / 2 ^ 56)))) ∧
    (¬UndefinedOp (w.toNat / 2 ^ 56) → ∃ t, step s = .next t)

/-- When the oldest input is a word that decodes, the step is that command, on the state with the word taken and `extIn` at the
value presented beside it. The block has no fetch of its own; the stream is the model's form of R1 (log 1). That a taken command
puts the EXT_IN value beside it into a field is the model's choice (log 3); the side input is R59, the spec's decision D34. -/
def Obligations.StepRunsDecodedCommand : Prop :=
  ∀ (s : State) (w : CommandWord) (e : Ext) (rest : List Input) (i : Instr), s.pending = .command w e :: rest →
    decode w = .instr i → step s = exec i { s with pending := rest, extIn := e }

/-- The steps that perform no command. With nothing sent a step changes nothing; a pulse of the reset input gives the cells of R31
with `power` as driven, and no response. The stream is the model's own (log 1), that the pulse leaves the response and `extIn`
alone is the model's choice (logs 2, 3), and the reset input is the spec's decision D28 (R180). -/
def Obligations.StepsWithoutACommand : Prop :=
  (∀ s : State, s.pending = [] → step s = .next s) ∧
  ∀ (s : State) (ext : Option Ext) (rest : List Input), s.pending = .resetLine ext :: rest →
    step s = .next { s with pending := rest, rf := zeroCells ext }

/-- R31, R72, R181: power-on with no extension supplied, and the `reset` command in every state, leave every cell zero or false;
`power` is absent, or the value on EXT_IN where the command has its reset option. That `power` is taken from EXT_IN under the
option is the spec's decision D14, D34, the answer 0 its decision D23 (log 8). -/
def Obligations.ResetStateIsZero : Prop :=
  State.reset.rf = zeroCells none ∧
  (∀ s, Answers (.reset false) s (zeroCells none) 0) ∧
  ∀ s, Answers (.reset true) s (zeroCells (some s.extIn)) 0

/-- The machine right after reset meets the invariant of `StepKeepsInvariant`. The two predicates read the response and the stream
only, so this rests on the model's own choices and on no rule: no response before the first command (log 2), and nothing sent
(log 1). -/
def Obligations.ResetMeetsInvariant : Prop := State.reset.responseWf = true ∧ State.reset.safe = true

/-- A step that goes on keeps the form of responses (`RES` is 0 unless the status is done, and is a 16-bit signed or unsigned
number), and keeps every command of the stream meaningful. The range of `RES` is DEDUCED from the
result lines of the rules (log 11); the response word is the spec's decision D3. -/
def Obligations.StepKeepsInvariant : Prop :=
  ∀ s t : State, step s = .next t → (s.responseWf = true → t.responseWf = true) ∧ (s.safe = true → t.safe = true)

/-- A run on meaningful commands never stops: after `n` steps the first `n` inputs have been taken, and the parameters are as
before. Order and an answer to every command are R48 and R190, one step a command is the spec's decision D27. That a step takes one
entry of the stream and an idle step stands still is the model's choice (log 1), and so is that no step changes the parameters
(log 6). -/
def Obligations.SafeRunTakesEveryInput : Prop :=
  ∀ (n : Nat) (s : State), s.safe = true →
    ∃ t : State, Host.Core.run Sys2Proof.core n s = .next t ∧ t.pending = s.pending.drop n ∧ t.params = s.params

/-- R52: every command, in every state, gives one response and changes at most the cells beside it. `STATUS` is 0, 1 or 2; `RES`
is 0 on an error and where the operation has no result; only `toSigned8` and `toSigned16` answer a negative number. The word
holds `STATUS` in bits 31:24 and `RES` in bits 23:0. The word and the codes are the spec's decisions D3, D7, D30. -/
def Obligations.EveryCommandIsAnsweredOnce : Prop :=
  ∀ (i : Instr) (s : State), ∃ (rf : RegFile) (r : Response),
    exec i s = .next { s with rf := rf, response := some r } ∧
    r.word.toNat / 2 ^ 24 ≤ 2 ∧ (r.word.toNat / 2 ^ 24 = 0 ↔ r.status = .done) ∧ r.word.toNat % 2 ^ 24 = r.res.toNat ∧
    (r.status ≠ .done → r.res = 0) ∧ (hasNoResult i = true → r.res = 0) ∧ (r.res.toInt < 0 → mayAnswerNegative i = true)

/-- R165: after an error the state is as before the failed command (only the response tells), and the same command again gives
the same error again (derived by the spec). -/
def Obligations.ErrorLeavesStateUnchanged : Prop :=
  ∀ (i : Instr) (s t : State) (r : Response), exec i s = .next t → t.response = some r → r.status ≠ .done →
    t = { s with response := some r } ∧ exec i t = .next t

/-- R161: `UnknownRegister`, status code 1, is the answer to a tag that names nothing in the name space of its command, for
every value `x`, and to nothing else. For flag and group tags, and the code, these are the spec's decisions D25, D7. -/
def Obligations.UnknownTagsAnswerUnknownRegister : Prop :=
  (∀ (i : Instr) (s : State), (BadTag i → Errs i s .unknownRegister) ∧
    (¬BadTag i → ∀ t r, exec i s = .next t → t.response = some r → r.status ≠ .error .unknownRegister)) ∧
  Response.word { status := .error .unknownRegister, res := 0 } = 0x01000000

/-- R162: `OperandOutOfRange`, status code 2, is the answer to an operand outside its declared range, and to nothing else.
The code and two of the ranges are the spec's decisions D7, D20, D21. -/
def Obligations.OperandsOutOfRangeAnswerError : Prop :=
  (∀ (i : Instr) (s : State), (¬OperandsInRange i → Errs i s .operandOutOfRange) ∧
    (OperandsInRange i → ∀ t r, exec i s = .next t → t.response = some r → r.status ≠ .error .operandOutOfRange)) ∧
  Response.word { status := .error .operandOutOfRange, res := 0 } = 0x02000000

/-- The whole-machine frame of R33: each of the nineteen cells changes only by a command whose rule writes it. -/
def Obligations.CellsChangeOnlyByTheirWriters : Prop :=
  ∀ (i : Instr) (s t : State), exec i s = .next t → (∀ e, i ≠ .reset e) →
    (t.rf.af ≠ s.rf.af → mayWriteFlags i ≠ 0 ∨ ∃ x, i = .set 0x00 x) ∧
    (t.rf.bc ≠ s.rf.bc → ∃ x, i = .set 0x02 x ∨ i = .set 0x03 x ∨ i = .set 0x11 x) ∧
    (t.rf.de ≠ s.rf.de → ∃ x, i = .set 0x04 x ∨ i = .set 0x05 x ∨ i = .set 0x12 x) ∧
    (t.rf.hl ≠ s.rf.hl → ∃ x, i = .set 0x06 x ∨ i = .set 0x07 x ∨ i = .set 0x13 x) ∧
    (t.rf.ix ≠ s.rf.ix → ∃ x, i = .set 0x08 x ∨ i = .set 0x09 x ∨ i = .set 0x14 x) ∧
    (t.rf.iy ≠ s.rf.iy → ∃ x, i = .set 0x0A x ∨ i = .set 0x0B x ∨ i = .set 0x15 x) ∧
    (t.rf.sp ≠ s.rf.sp → ∃ x, i = .set 0x16 x) ∧
    (t.rf.pc ≠ s.rf.pc → ∃ x, i = .set 0x17 x ∨ i = .offsetPC x) ∧
    (t.rf.afShadow ≠ s.rf.afShadow → ∃ x, i = .set 0x18 x) ∧
    (t.rf.bcShadow ≠ s.rf.bcShadow → ∃ x, i = .set 0x19 x) ∧
    (t.rf.deShadow ≠ s.rf.deShadow → ∃ x, i = .set 0x1A x) ∧
    (t.rf.hlShadow ≠ s.rf.hlShadow → ∃ x, i = .set 0x1B x) ∧
    (t.rf.i ≠ s.rf.i → ∃ x, i = .set 0x0C x) ∧
    (t.rf.r ≠ s.rf.r → ∃ x, i = .set 0x0D x) ∧
    (t.rf.halt ≠ s.rf.halt → ∃ x, i = .set 0x20 x) ∧
    (t.rf.iff ≠ s.rf.iff → ∃ x, i = .set 0x21 x) ∧
    (t.rf.iff2 ≠ s.rf.iff2 → ∃ x, i = .set 0x22 x) ∧
    (t.rf.im ≠ s.rf.im → ∃ x, i = .set 0x23 x) ∧
    t.rf.power = s.rf.power

/-- The table of R30: a flag a command does not list keeps its value, `A` is kept by every command but the writers of `A`, and a
completed command leaves its constant flags at their constants. -/
def Obligations.FlagsChangeOnlyAsTabled : Prop :=
  ∀ (i : Instr) (s t : State), exec i s = .next t →
    (∀ k < 8, (mayWriteFlags i).getLsbD k = false → flag t.rf k = flag s.rf k) ∧
    (accu t.rf ≠ accu s.rf → (∃ e, i = .reset e) ∨ ∃ x, i = .set 0x00 x ∨ i = .set 0x10 x ∨ i = .and_n x ∨ i = .or_n x ∨ i = .xor_n x) ∧
    (∀ r, t.response = some r → r.status = .done → ∀ p ∈ constantFlags i, flag t.rf p.1 = p.2)

/-- R30: for a command that is not listed as a reader of flags, the answer and every cell but `F` are the same whatever the flags
were. -/
def Obligations.OtherAnswersIgnoreFlags : Prop :=
  ∀ (i : Instr) (s t t' : State) (f : Byte), readsFlags i = false → exec i s = .next t →
    exec i { s with rf := withF s.rf f } = .next t' → t'.response = t.response ∧ ∃ f', t'.rf = withF t.rf f'

/-- R19: no command reads `power`, and only `reset` writes it. That no tag names it is the spec's decision D14. -/
def Obligations.PowerIsNeverRead : Prop :=
  ∀ (i : Instr) (s t : State) (p : Option Ext), exec i s = .next t →
    ((∃ e, i = .reset e) → exec i (withPower s p) = .next t) ∧
    ((∀ e, i ≠ .reset e) → t.rf.power = s.rf.power ∧ exec i (withPower s p) = .next (withPower t p))

/-- R70: `get` answers the value of the register its tag names and changes no cell; a tag that names none is the error. Tags,
the width of `IM` and reading a boolean as 0 or 1 are the spec's decisions D5, D11, D12, D13. -/
def Obligations.GetReadsItsRegister : Prop :=
  ∀ (t : Byte) (s : State),
    match registerValue s.rf t.toNat with
    | some v => Answers (.get t) s s.rf v
    | none => Errs (.get t) s .unknownRegister

/-- R71: `set` writes the register its tag names with the value cut to its width, folds a half into its pair, and changes nothing
else; a tag that names none is the error. The tags, `IM`, the booleans and the answer 0 are the spec's decisions D5, D11, D12, D13,
D23. -/
def Obligations.SetWritesItsRegister : Prop :=
  ∀ (t : Byte) (x : Int) (s : State),
    match registerWritten s.rf t.toNat x with
    | some rf => Answers (.set t x) s rf 0
    | none => Errs (.set t x) s .unknownRegister

/-- After `set t, x`, `get t` answers `x` cut to the width of `t`. The width of `IM` and the booleans are the spec's decisions D11,
D12. -/
def Obligations.GetAfterSet : Prop :=
  ∀ (t : Byte) (x : Int) (s : State), ¬BadTag (.get t) →
    ∃ u : State, exec (.set t x) s = .next u ∧ Answers (.get t) u u.rf (cutToWidth t.toNat x)

/-- R43: a pair and its halves. That tag `2p` is the high half and `2p + 1` the low half of the cell `0x10 + p` is R56, the spec's
decision D5 (log 8). -/
def Obligations.PairIsHighHalfThenLowHalf : Prop :=
  ∀ (p : Nat) (s : State), p < 6 →
    (∀ v : Int, within 0 65535 v → ∃ u : State, exec (.set (BitVec.ofNat 8 (0x10 + p)) v) s = .next u ∧
      Answers (.get (BitVec.ofNat 8 (2 * p))) u u.rf (v / 256) ∧
      Answers (.get (BitVec.ofNat 8 (2 * p + 1))) u u.rf (v % 256)) ∧
    (∀ h l : Int, within 0 255 h → within 0 255 l → ∃ u u' : State,
      exec (.set (BitVec.ofNat 8 (2 * p)) h) s = .next u ∧ exec (.set (BitVec.ofNat 8 (2 * p + 1)) l) u = .next u' ∧
      Answers (.get (BitVec.ofNat 8 (0x10 + p))) u' u'.rf (h * 256 + l))

/-- `set t` changes what `get u` answers for no register `u` that shares no bits with `t`, and changes a flag only through `F` or
`AF`. -/
def Obligations.SetLeavesUnrelatedRegisters : Prop :=
  ∀ (t u : Byte) (x : Int) (s s' : State), exec (.set t x) s = .next s' →
    (shareBits t.toNat u.toNat = false → registerValue s'.rf u.toNat = registerValue s.rf u.toNat) ∧
    (t ≠ 0x01 → t ≠ 0x10 → ∀ k < 8, flag s'.rf k = flag s.rf k)

/-- `set` is idempotent, and the reads change no cell. These are two of R47's sentences; its remark on the accumulator operations is
no part of this statement (log 12). -/
def Obligations.SetIsIdempotentAndReadsAreSilent : Prop :=
  (∀ (t : Byte) (x : Int) (s s' : State), exec (.set t x) s = .next s' → exec (.set t x) s' = .next s') ∧
  ∀ (t : Byte) (s s' : State), exec (.get t) s = .next s' ∨ exec (.fget t) s = .next s' → s'.rf = s.rf

/-- R80: `fget` answers the bit its tag names as 0 or 1, complemented for `notZ`; `P` and `V` are bit 2; a tag that names no flag
is the error. The tags, the answer 0 or 1 and the error are the spec's decisions D6, D24, D25. -/
def Obligations.FgetReadsItsFlag : Prop :=
  ∀ (t : Byte) (s : State),
    match flagTagBit t.toNat with
    | some k => Answers (.fget t) s s.rf (zeroOne (flag s.rf k != decide (t.toNat = 8)))
    | none => Errs (.fget t) s .unknownRegister

/-- R81: `fset` writes one bit of `AF`: set by any non-zero value (clear for `notZ`), and keeps the fifteen others; a tag that
names no flag is the error. The tags and the error are the spec's decisions D6, D25, the answer 0 its decision D23. -/
def Obligations.FsetWritesOneFlag : Prop :=
  ∀ (t : Byte) (x : Int) (s : State),
    match flagTagBit t.toNat with
    | some k => ∃ af : Word, Answers (.fset t x) s { s.rf with af := af } 0 ∧
        ∀ j < 16, af.getLsbD j = if j = k then decide (x ≠ 0) != decide (t.toNat = 8) else s.rf.af.getLsbD j
    | none => Errs (.fset t x) s .unknownRegister

/-- R82: `gset` gives every member of the group the same value at once and keeps every other bit of `AF`; a tag that names no
group is the error. The tags and the error are the spec's decisions D6, D25, the answer 0 its decision D23. -/
def Obligations.GsetWritesItsMembers : Prop :=
  ∀ (t : Byte) (x : Int) (s : State),
    match groupBits t.toNat with
    | some ks => ∃ af : Word, Answers (.gset t x) s { s.rf with af := af } 0 ∧
        ∀ j < 16, af.getLsbD j = if j ∈ ks then decide (x ≠ 0) else s.rf.af.getLsbD j
    | none => Errs (.gset t x) s .unknownRegister

/-- R90, R91: an unsigned value read as signed; no cell changes. -/
def Obligations.ToSignedReadsTwosComplement : Prop :=
  ∀ (x : Int) (s : State),
    (within 0 255 x → Answers (.toSigned8 x) s s.rf (if x ≥ 128 then x - 256 else x)) ∧
    (¬within 0 255 x → Errs (.toSigned8 x) s .operandOutOfRange) ∧
    (within 0 65535 x → Answers (.toSigned16 x) s s.rf (if x ≥ 32768 then x - 65536 else x)) ∧
    (¬within 0 65535 x → Errs (.toSigned16 x) s .operandOutOfRange)

/-- R92: a signed value as its 8-bit pattern; no cell changes. -/
def Obligations.ToUnsigned8GivesPattern : Prop :=
  ∀ (x : Int) (s : State),
    (within (-128) 255 x → Answers (.toUnsigned8 x) s s.rf (x % 256)) ∧
    (¬within (-128) 255 x → Errs (.toUnsigned8 x) s .operandOutOfRange)

/-- R93: a signed value as its 16-bit pattern; no cell changes. The accepted range is the spec's decision D20. -/
def Obligations.ToUnsigned16GivesPattern : Prop :=
  ∀ (x : Int) (s : State),
    (within (-32768) 65535 x → Answers (.toUnsigned16 x) s s.rf (x % 65536)) ∧
    (¬within (-32768) 65535 x → Errs (.toUnsigned16 x) s .operandOutOfRange)

/-- `toUnsigned` of the answer of `toSigned` gives the operand back, at both widths. -/
def Obligations.ConversionsRoundTrip : Prop :=
  ∀ (v : Int) (s : State),
    (within 0 255 v → ∃ t w, chain .toSigned8 1 s v = some (t, w) ∧ Answers (.toUnsigned8 w) t t.rf v) ∧
    (within 0 65535 v → ∃ t w, chain .toSigned16 1 s v = some (t, w) ∧ Answers (.toUnsigned16 w) t t.rf v)

/-- R101: `subtract8`. The enable mask is the spec's form of the source's toggles (R100, decision D15). -/
def Obligations.Subtract8WritesEnabledFlags : Prop :=
  ∀ (en : Byte) (a b : Int) (s : State),
    (within 0 255 a ∧ within 0 255 b → SubtractAnswers (.subtract8 en a b) en a b s) ∧
    (¬(within 0 255 a ∧ within 0 255 b) → Errs (.subtract8 en a b) s .operandOutOfRange)

/-- R102: `subtract8VC` is `subtract8` with every flag written; that it writes the six others too is the spec's decision D16. -/
def Obligations.Subtract8VCWritesAllFlags : Prop :=
  ∀ (a b : Int) (s : State),
    (within 0 255 a ∧ within 0 255 b → SubtractAnswers (.subtract8VC a b) 0xFF a b s) ∧
    (¬(within 0 255 a ∧ within 0 255 b) → Errs (.subtract8VC a b) s .operandOutOfRange) ∧
    exec (.subtract8VC a b) s = exec (.subtract8 0xFF a b) s

/-- R103: `add8`. The enable mask is the spec's form of the source's toggles (R100, decision D15). -/
def Obligations.Add8WritesEnabledFlags : Prop :=
  ∀ (en : Byte) (a b : Int) (s : State),
    (within 0 255 a ∧ within 0 255 b → ∃ f, Answers (.add8 en a b) s (withF s.rf f) ((a + b) % 256) ∧
      FlagsAre f (pick en s.rf 7 (bitOf ((a + b) % 256) 7)) (pick en s.rf 6 (decide ((a + b) % 256 = 0)))
        (pick en s.rf 5 (bitOf ((a + b) % 256) 5)) (pick en s.rf 4 (decide (a % 16 + b % 16 > 15)))
        (pick en s.rf 3 (bitOf ((a + b) % 256) 3)) (pick en s.rf 2 (overflows 8 (signedOf 8 a + signedOf 8 b)))
        (pick en s.rf 1 false) (pick en s.rf 0 (decide (a + b > 255)))) ∧
    (¬(within 0 255 a ∧ within 0 255 b) → Errs (.add8 en a b) s .operandOutOfRange)

/-- R104: `add16`, for both values of the parameter `F35_16` (the spec's decision D18 takes `high`). -/
def Obligations.Add16WritesAllFlags : Prop :=
  ∀ (a b : Int) (s : State),
    (within 0 65535 a ∧ within 0 65535 b → ∃ f, Answers (.add16 a b) s (withF s.rf f) ((a + b) % 65536) ∧
      FlagsAre f (bitOf ((a + b) % 65536) 15) (decide ((a + b) % 65536 = 0)) (bitOf ((a + b) % 65536) (f5Bit s))
        (decide (a % 4096 + b % 4096 > 4095)) (bitOf ((a + b) % 65536) (f3Bit s))
        (overflows 16 (signedOf 16 a + signedOf 16 b)) false (decide (a + b > 65535))) ∧
    (¬(within 0 65535 a ∧ within 0 65535 b) → Errs (.add16 a b) s .operandOutOfRange)

/-- R105: `subtract16`, for both values of the parameter `F35_16` (the spec's decision D18 takes `high`). -/
def Obligations.Subtract16WritesAllFlags : Prop :=
  ∀ (a b : Int) (s : State),
    (within 0 65535 a ∧ within 0 65535 b → ∃ f, Answers (.subtract16 a b) s (withF s.rf f) ((a - b) % 65536) ∧
      FlagsAre f (bitOf ((a - b) % 65536) 15) (decide ((a - b) % 65536 = 0)) (bitOf ((a - b) % 65536) (f5Bit s))
        (decide (b % 4096 > a % 4096)) (bitOf ((a - b) % 65536) (f3Bit s))
        (overflows 16 (signedOf 16 a - signedOf 16 b)) true (decide (a < b))) ∧
    (¬(within 0 65535 a ∧ within 0 65535 b) → Errs (.subtract16 a b) s .operandOutOfRange)

/-- R106: the two forms of signed overflow agree, for add and subtract, at both widths. The bit form of the subtraction is derived
by the spec (D17). -/
def Obligations.OverflowFormsAgree : Prop :=
  (∀ a b : Byte,
    overflowAdd8 a b = (a.getLsbD 7 == b.getLsbD 7 && a.getLsbD 7 != (a + b).getLsbD 7) ∧
    overflowAdd8 a b = overflows 8 (signedOf 8 a.toNat + signedOf 8 b.toNat) ∧
    overflowSub8 a b = (a.getLsbD 7 != b.getLsbD 7 && a.getLsbD 7 != (a - b).getLsbD 7) ∧
    overflowSub8 a b = overflows 8 (signedOf 8 a.toNat - signedOf 8 b.toNat)) ∧
  ∀ a b : Word,
    overflowAdd16 a b = (a.getLsbD 15 == b.getLsbD 15 && a.getLsbD 15 != (a + b).getLsbD 15) ∧
    overflowAdd16 a b = overflows 16 (signedOf 16 a.toNat + signedOf 16 b.toNat) ∧
    overflowSub16 a b = (a.getLsbD 15 != b.getLsbD 15 && a.getLsbD 15 != (a - b).getLsbD 15) ∧
    overflowSub16 a b = overflows 16 (signedOf 16 a.toNat - signedOf 16 b.toNat)

/-- `subtract8 a, b` and then `add8` of its answer and `b` answers `a`, whatever is enabled. -/
def Obligations.AddUndoesSubtract : Prop :=
  ∀ (en en' : Byte) (a b : Int) (s : State), within 0 255 a → within 0 255 b →
    ∃ t r u, chain (fun v => .subtract8 en v b) 1 s a = some (t, r) ∧ chain (fun v => .add8 en' v b) 1 t r = some (u, a)

/-- R110, R111: `inc8` and `dec8` wrap modulo 256 and write nothing. -/
def Obligations.IncDec8OnlyCompute : Prop :=
  ∀ (x : Int) (s : State),
    (within 0 255 x → Answers (.inc8 x) s s.rf ((x + 1) % 256) ∧ Answers (.dec8 x) s s.rf ((x - 1) % 256)) ∧
    (¬within 0 255 x → Errs (.inc8 x) s .operandOutOfRange ∧ Errs (.dec8 x) s .operandOutOfRange)

/-- R112, R113: `inc16` and `dec16` wrap modulo 65536 and write nothing. -/
def Obligations.IncDec16OnlyCompute : Prop :=
  ∀ (x : Int) (s : State),
    (within 0 65535 x → Answers (.inc16 x) s s.rf ((x + 1) % 65536) ∧ Answers (.dec16 x) s s.rf ((x - 1) % 65536)) ∧
    (¬within 0 65535 x → Errs (.inc16 x) s .operandOutOfRange ∧ Errs (.dec16 x) s .operandOutOfRange)

/-- R120: `parity8` answers 1 exactly when the number of 1 bits is even, and writes nothing. Answering a
boolean as 0 or 1 is the spec's decision D24. -/
def Obligations.Parity8CountsBits : Prop :=
  ∀ (x : Int) (s : State),
    (within 0 255 x → Answers (.parity8 x) s s.rf (zeroOne (evenBits x))) ∧
    (¬within 0 255 x → Errs (.parity8 x) s .operandOutOfRange)

/-- R121: `and_n`. That the new `A` is the answer is the spec's decision D23. -/
def Obligations.AndNRewritesAF : Prop :=
  ∀ (x : Int) (s : State),
    (within 0 255 x → LogicAnswers (.and_n x) s (accu s.rf &&& x.toNat : Nat) true) ∧
    (¬within 0 255 x → Errs (.and_n x) s .operandOutOfRange)

/-- R122: `or_n`. That the new `A` is the answer is the spec's decision D23. -/
def Obligations.OrNRewritesAF : Prop :=
  ∀ (x : Int) (s : State),
    (within 0 255 x → LogicAnswers (.or_n x) s (accu s.rf ||| x.toNat : Nat) false) ∧
    (¬within 0 255 x → Errs (.or_n x) s .operandOutOfRange)

/-- R123: `xor_n`. That the new `A` is the answer is the spec's decision D23. -/
def Obligations.XorNRewritesAF : Prop :=
  ∀ (x : Int) (s : State),
    (within 0 255 x → LogicAnswers (.xor_n x) s (accu s.rf ^^^ x.toNat : Nat) false) ∧
    (¬within 0 255 x → Errs (.xor_n x) s .operandOutOfRange)

/-- R131, R130: bit 7 exits to `C` and re-enters at bit 0. -/
def Obligations.RotateLeftCarryMovesBit7 : Prop :=
  ∀ (x : Int) (s : State),
    (within 0 255 x → RotateAnswers (.rotateLeftCarry x) s (2 * x % 256 + x / 128) (x / 128)) ∧
    (¬within 0 255 x → Errs (.rotateLeftCarry x) s .operandOutOfRange)

/-- R132, R130: bit 7 exits to `C`, and the previous carry enters at bit 0. -/
def Obligations.RotateLeftTakesOldCarry : Prop :=
  ∀ (x : Int) (s : State),
    (within 0 255 x → RotateAnswers (.rotateLeft x) s (2 * x % 256 + zeroOne (flag s.rf 0)) (x / 128)) ∧
    (¬within 0 255 x → Errs (.rotateLeft x) s .operandOutOfRange)

/-- R133, R130: bit 0 exits to `C` and re-enters at bit 7 (derived by the spec as the mirror of R131). -/
def Obligations.RotateRightCarryMovesBit0 : Prop :=
  ∀ (x : Int) (s : State),
    (within 0 255 x → RotateAnswers (.rotateRightCarry x) s (x / 2 + x % 2 * 128) (x % 2)) ∧
    (¬within 0 255 x → Errs (.rotateRightCarry x) s .operandOutOfRange)

/-- R134, R130: bit 0 exits to `C`, and the previous carry enters at bit 7 (derived by the spec as the mirror of
R132). -/
def Obligations.RotateRightTakesOldCarry : Prop :=
  ∀ (x : Int) (s : State),
    (within 0 255 x → RotateAnswers (.rotateRight x) s (x / 2 + zeroOne (flag s.rf 0) * 128) (x % 2)) ∧
    (¬within 0 255 x → Errs (.rotateRight x) s .operandOutOfRange)

/-- R135, R130: bit 7 exits to `C`, and 0 enters at bit 0. -/
def Obligations.ShiftLeftEntersZero : Prop :=
  ∀ (x : Int) (s : State),
    (within 0 255 x → RotateAnswers (.shiftLeft x) s (2 * x % 256) (x / 128)) ∧
    (¬within 0 255 x → Errs (.shiftLeft x) s .operandOutOfRange)

/-- R136, R130: bit 7 exits to `C`, and 1 enters at bit 0. -/
def Obligations.ShiftLeftLogicalEntersOne : Prop :=
  ∀ (x : Int) (s : State),
    (within 0 255 x → RotateAnswers (.shiftLeftLogical x) s (2 * x % 256 + 1) (x / 128)) ∧
    (¬within 0 255 x → Errs (.shiftLeftLogical x) s .operandOutOfRange)

/-- R137, R130: bit 0 exits to `C`, and bit 7 is preserved. -/
def Obligations.ShiftRightKeepsSign : Prop :=
  ∀ (x : Int) (s : State),
    (within 0 255 x → RotateAnswers (.shiftRight x) s (x / 2 + x / 128 * 128) (x % 2)) ∧
    (¬within 0 255 x → Errs (.shiftRight x) s .operandOutOfRange)

/-- R138, R130: bit 0 exits to `C`, and 0 enters at bit 7. That `Z` and `PV` are written is the spec's decision D22. -/
def Obligations.ShiftRightLogicalEntersZero : Prop :=
  ∀ (x : Int) (s : State),
    (within 0 255 x → RotateAnswers (.shiftRightLogical x) s (x / 2) (x % 2)) ∧
    (¬within 0 255 x → Errs (.shiftRightLogical x) s .operandOutOfRange)

/-- The 9-bit ring of the carry and the operand comes back after nine rotations through carry either way; the 8-bit ring after
eight of the others. At the end no cell but `F` differs. -/
def Obligations.RotationRingsClose : Prop :=
  ∀ (v : Int) (s : State), within 0 255 v →
    (∃ t : State, chain .rotateLeft 9 s v = some (t, v) ∧ flag t.rf 0 = flag s.rf 0 ∧ ∃ f, t.rf = withF s.rf f) ∧
    (∃ t : State, chain .rotateRight 9 s v = some (t, v) ∧ flag t.rf 0 = flag s.rf 0 ∧ ∃ f, t.rf = withF s.rf f) ∧
    (∃ t : State, chain .rotateLeftCarry 8 s v = some (t, v) ∧ ∃ f, t.rf = withF s.rf f) ∧
    (∃ t : State, chain .rotateRightCarry 8 s v = some (t, v) ∧ ∃ f, t.rf = withF s.rf f)

/-- `rotateRight` of the answer of `rotateLeft` gives the operand and the carry back, and the other way round. -/
def Obligations.RotateRightUndoesRotateLeft : Prop :=
  ∀ (v : Int) (s : State), within 0 255 v →
    (∃ t r u, chain .rotateLeft 1 s v = some (t, r) ∧ chain .rotateRight 1 t r = some (u, v) ∧ flag u.rf 0 = flag s.rf 0) ∧
    (∃ t r u, chain .rotateRight 1 s v = some (t, r) ∧ chain .rotateLeft 1 t r = some (u, v) ∧ flag u.rf 0 = flag s.rf 0)

/-- R150: `offsetPC` adds the displacement byte, read as signed, to `PC` modulo 65536, answers the new `PC` and changes no other
cell. That the new `PC` is the answer is the spec's decision D23. -/
def Obligations.OffsetPCAddsSignedByte : Prop :=
  ∀ (d : Int) (s : State),
    (within 0 255 d → Answers (.offsetPC d) s
      { s.rf with pc := BitVec.ofInt 16 ((s.rf.pc.toNat + signedOf 8 d) % 65536) } ((s.rf.pc.toNat + signedOf 8 d) % 65536)) ∧
    (¬within 0 255 d → Errs (.offsetPC d) s .operandOutOfRange)

/-- A jump and the jump by the opposite displacement restore `PC`, except for 0x80, whose opposite no byte expresses. -/
def Obligations.OppositeOffsetsRestorePC : Prop :=
  ∀ (d : Int) (s : State), within 0 255 d → d ≠ 128 →
    ∃ t u : State, exec (.offsetPC d) s = .next t ∧ exec (.offsetPC ((256 - d) % 256)) t = .next u ∧ u.rf = s.rf

/-- R151: `setF5F3` copies bits 5 and 3 of its operand and keeps the six other flags and `A`. The width of
the operand is the spec's decision D21, the answer 0 its decision D23. -/
def Obligations.SetF5F3CopiesTwoBits : Prop :=
  ∀ (x : Int) (s : State),
    (within 0 255 x → ∃ f, Answers (.setF5F3 x) s (withF s.rf f) 0 ∧
      FlagsAre f (flag s.rf 7) (flag s.rf 6) (bitOf x 5) (flag s.rf 4) (bitOf x 3) (flag s.rf 2) (flag s.rf 1) (flag s.rf 0)) ∧
    (¬within 0 255 x → Errs (.setF5F3 x) s .operandOutOfRange)

/-- R152: `setF5F3FromAccumulator` copies bits 5 and 3 of `A` (bits 13 and 11 of `AF`) and keeps the rest.
The answer 0 is the spec's decision D23. -/
def Obligations.SetF5F3FromAccumulatorCopiesA : Prop :=
  ∀ s : State, ∃ f, Answers .setF5F3FromAccumulator s (withF s.rf f) 0 ∧
    FlagsAre f (flag s.rf 7) (flag s.rf 6) (flag s.rf 13) (flag s.rf 4) (flag s.rf 11) (flag s.rf 2) (flag s.rf 1) (flag s.rf 0)

/-- The words of a construction, sent in order, leave the reset cells with the entries set in order; an entry that names no
register leaves the cells as they are (R63, R73, the spec's decision D26). That the words wait in
the stream and a step takes one is the model's choice (log 1); the tags, `IM` and the booleans behind `registerWritten` are the
spec's decisions D5, D11, D12. -/
def Obligations.ConstructionSetsEntriesInOrder : Prop :=
  ∀ (ext : Bool) (entries : List (Byte × Int)) (s : State), (∀ e ∈ entries, fits24 e.2) →
    s.pending = (construct ext entries).map (fun i => .command (encode i) s.extIn) →
    ∃ t : State, Host.Core.run Sys2Proof.core (entries.length + 1) s = .next t ∧ t.pending = [] ∧
      t.rf = entries.foldl (fun rf e => (registerWritten rf e.1.toNat e.2).getD rf)
        (zeroCells (if ext then some s.extIn else none))
end

