-- ==== Sys2Proof/Laws/Decode.lean ====
section
/-! SUPPORT. The fields of a packed command word, and the operand field's round trip (30_encoding.md R50, R51). -/

namespace Sys2Proof

section fields

variable (op sel : Byte) (x y : Field24)

@[simp] theorem opField_pack : opField (packCommand op sel x y) = op := by
  ext k hk
  have h : ¬(56 + k < 48) ∧ ¬(56 + k < 24) ∧ 56 + k < 64 := by omega
  have h1 : sel.getLsbD (56 + k - 48) = false := BitVec.getLsbD_of_ge _ _ (by omega)
  have h2 : x.getLsbD (56 + k - 24) = false := BitVec.getLsbD_of_ge _ _ (by omega)
  have h3 : y.getLsbD (56 + k) = false := BitVec.getLsbD_of_ge _ _ (by omega)
  simp [opField, packCommand, hk, h, h1, h2, h3]

@[simp] theorem selField_pack : selField (packCommand op sel x y) = sel := by
  ext k hk
  have h : 48 + k < 56 ∧ ¬(48 + k < 24) ∧ 48 + k < 64 := by omega
  have h2 : x.getLsbD (48 + k - 24) = false := BitVec.getLsbD_of_ge _ _ (by omega)
  have h3 : y.getLsbD (48 + k) = false := BitVec.getLsbD_of_ge _ _ (by omega)
  simp [selField, packCommand, hk, h, h2, h3]

@[simp] theorem xField_pack : xField (packCommand op sel x y) = x := by
  ext k hk
  have h : 24 + k < 56 ∧ 24 + k < 48 ∧ 24 + k < 64 := by omega
  simp [xField, packCommand, hk, h]

@[simp] theorem yField_pack : yField (packCommand op sel x y) = y := by
  ext k hk
  have h : k < 56 ∧ k < 48 ∧ k < 64 := by omega
  simp [yField, packCommand, hk, h]

end fields

/-- An operand that fits its field is read back from it (R51). -/
theorem operandOf_fieldOf {x : Int} (h : fits24 x) : operandOf (fieldOf x) = x := by
  simp only [operandOf, fieldOf, BitVec.toInt_ofInt]
  exact Int.bmod_eq_of_le (by omega) (by omega)

/-- A field is the field of the operand it carries (R51). -/
@[simp] theorem fieldOf_operandOf (f : Field24) : fieldOf (operandOf f) = f := BitVec.ofInt_toInt

end Sys2Proof
end

