-- ==== Sys2Proof/Laws/State.lean ====
section
/-! SUPPORT. What each named update of a state or a register file does to each field: true by definition, so that no proof
unfolds a record update. -/

namespace Sys2Proof.Machine

open Sys2Proof

section cells

variable (rf : RegFile) (p : Pair) (q : Shadow) (w : Word) (f : Byte) (ext : Option Ext)

@[simp] theorem powerOn_af : (RegFile.powerOn ext).af = 0x0000 := rfl
@[simp] theorem powerOn_bc : (RegFile.powerOn ext).bc = 0x0000 := rfl
@[simp] theorem powerOn_de : (RegFile.powerOn ext).de = 0x0000 := rfl
@[simp] theorem powerOn_hl : (RegFile.powerOn ext).hl = 0x0000 := rfl
@[simp] theorem powerOn_ix : (RegFile.powerOn ext).ix = 0x0000 := rfl
@[simp] theorem powerOn_iy : (RegFile.powerOn ext).iy = 0x0000 := rfl
@[simp] theorem powerOn_sp : (RegFile.powerOn ext).sp = 0x0000 := rfl
@[simp] theorem powerOn_pc : (RegFile.powerOn ext).pc = 0x0000 := rfl
@[simp] theorem powerOn_afShadow : (RegFile.powerOn ext).afShadow = 0x0000 := rfl
@[simp] theorem powerOn_bcShadow : (RegFile.powerOn ext).bcShadow = 0x0000 := rfl
@[simp] theorem powerOn_deShadow : (RegFile.powerOn ext).deShadow = 0x0000 := rfl
@[simp] theorem powerOn_hlShadow : (RegFile.powerOn ext).hlShadow = 0x0000 := rfl
@[simp] theorem powerOn_i : (RegFile.powerOn ext).i = 0x00 := rfl
@[simp] theorem powerOn_r : (RegFile.powerOn ext).r = 0x00 := rfl
@[simp] theorem powerOn_halt : (RegFile.powerOn ext).halt = false := rfl
@[simp] theorem powerOn_iff : (RegFile.powerOn ext).iff = false := rfl
@[simp] theorem powerOn_iff2 : (RegFile.powerOn ext).iff2 = false := rfl
@[simp] theorem powerOn_im : (RegFile.powerOn ext).im = 0 := rfl
@[simp] theorem powerOn_power : (RegFile.powerOn ext).power = ext := rfl

@[simp] theorem writeFlags_bc : (rf.writeFlags f).bc = rf.bc := rfl
@[simp] theorem writeFlags_de : (rf.writeFlags f).de = rf.de := rfl
@[simp] theorem writeFlags_hl : (rf.writeFlags f).hl = rf.hl := rfl
@[simp] theorem writeFlags_ix : (rf.writeFlags f).ix = rf.ix := rfl
@[simp] theorem writeFlags_iy : (rf.writeFlags f).iy = rf.iy := rfl
@[simp] theorem writeFlags_sp : (rf.writeFlags f).sp = rf.sp := rfl
@[simp] theorem writeFlags_pc : (rf.writeFlags f).pc = rf.pc := rfl
@[simp] theorem writeFlags_afShadow : (rf.writeFlags f).afShadow = rf.afShadow := rfl
@[simp] theorem writeFlags_bcShadow : (rf.writeFlags f).bcShadow = rf.bcShadow := rfl
@[simp] theorem writeFlags_deShadow : (rf.writeFlags f).deShadow = rf.deShadow := rfl
@[simp] theorem writeFlags_hlShadow : (rf.writeFlags f).hlShadow = rf.hlShadow := rfl
@[simp] theorem writeFlags_i : (rf.writeFlags f).i = rf.i := rfl
@[simp] theorem writeFlags_r : (rf.writeFlags f).r = rf.r := rfl
@[simp] theorem writeFlags_halt : (rf.writeFlags f).halt = rf.halt := rfl
@[simp] theorem writeFlags_iff : (rf.writeFlags f).iff = rf.iff := rfl
@[simp] theorem writeFlags_iff2 : (rf.writeFlags f).iff2 = rf.iff2 := rfl
@[simp] theorem writeFlags_im : (rf.writeFlags f).im = rf.im := rfl
@[simp] theorem writeFlags_power : (rf.writeFlags f).power = rf.power := rfl
@[simp] theorem writeFlags_af : (rf.writeFlags f).af = joinBytes rf.accu f := rfl

@[simp] theorem writePair_sp : (rf.writePair p w).sp = rf.sp := by cases p <;> rfl
@[simp] theorem writePair_pc : (rf.writePair p w).pc = rf.pc := by cases p <;> rfl
@[simp] theorem writePair_afShadow : (rf.writePair p w).afShadow = rf.afShadow := by cases p <;> rfl
@[simp] theorem writePair_bcShadow : (rf.writePair p w).bcShadow = rf.bcShadow := by cases p <;> rfl
@[simp] theorem writePair_deShadow : (rf.writePair p w).deShadow = rf.deShadow := by cases p <;> rfl
@[simp] theorem writePair_hlShadow : (rf.writePair p w).hlShadow = rf.hlShadow := by cases p <;> rfl
@[simp] theorem writePair_i : (rf.writePair p w).i = rf.i := by cases p <;> rfl
@[simp] theorem writePair_r : (rf.writePair p w).r = rf.r := by cases p <;> rfl
@[simp] theorem writePair_halt : (rf.writePair p w).halt = rf.halt := by cases p <;> rfl
@[simp] theorem writePair_iff : (rf.writePair p w).iff = rf.iff := by cases p <;> rfl
@[simp] theorem writePair_iff2 : (rf.writePair p w).iff2 = rf.iff2 := by cases p <;> rfl
@[simp] theorem writePair_im : (rf.writePair p w).im = rf.im := by cases p <;> rfl
@[simp] theorem writePair_power : (rf.writePair p w).power = rf.power := by cases p <;> rfl

@[simp] theorem writeShadow_af : (rf.writeShadow q w).af = rf.af := by cases q <;> rfl
@[simp] theorem writeShadow_bc : (rf.writeShadow q w).bc = rf.bc := by cases q <;> rfl
@[simp] theorem writeShadow_de : (rf.writeShadow q w).de = rf.de := by cases q <;> rfl
@[simp] theorem writeShadow_hl : (rf.writeShadow q w).hl = rf.hl := by cases q <;> rfl
@[simp] theorem writeShadow_ix : (rf.writeShadow q w).ix = rf.ix := by cases q <;> rfl
@[simp] theorem writeShadow_iy : (rf.writeShadow q w).iy = rf.iy := by cases q <;> rfl
@[simp] theorem writeShadow_sp : (rf.writeShadow q w).sp = rf.sp := by cases q <;> rfl
@[simp] theorem writeShadow_pc : (rf.writeShadow q w).pc = rf.pc := by cases q <;> rfl
@[simp] theorem writeShadow_i : (rf.writeShadow q w).i = rf.i := by cases q <;> rfl
@[simp] theorem writeShadow_r : (rf.writeShadow q w).r = rf.r := by cases q <;> rfl
@[simp] theorem writeShadow_halt : (rf.writeShadow q w).halt = rf.halt := by cases q <;> rfl
@[simp] theorem writeShadow_iff : (rf.writeShadow q w).iff = rf.iff := by cases q <;> rfl
@[simp] theorem writeShadow_iff2 : (rf.writeShadow q w).iff2 = rf.iff2 := by cases q <;> rfl
@[simp] theorem writeShadow_im : (rf.writeShadow q w).im = rf.im := by cases q <;> rfl
@[simp] theorem writeShadow_power : (rf.writeShadow q w).power = rf.power := by cases q <;> rfl

@[simp] theorem readPair_writePair_same : (rf.writePair p w).readPair p = w := by cases p <;> rfl

theorem readPair_writePair_other {p p' : Pair} (h : p ≠ p') : (rf.writePair p w).readPair p' = rf.readPair p' := by
  cases p <;> cases p' <;> first | rfl | exact absurd rfl h

@[simp] theorem readShadow_writeShadow_same : (rf.writeShadow q w).readShadow q = w := by cases q <;> rfl

theorem readShadow_writeShadow_other {q q' : Shadow} (h : q ≠ q') :
    (rf.writeShadow q w).readShadow q' = rf.readShadow q' := by
  cases q <;> cases q' <;> first | rfl | exact absurd rfl h

@[simp] theorem readShadow_writePair : (rf.writePair p w).readShadow q = rf.readShadow q := by cases p <;> rfl

@[simp] theorem readPair_writeShadow : (rf.writeShadow q w).readPair p = rf.readPair p := by cases q <;> rfl

/-- Writing a pair with what it holds changes nothing. -/
@[simp] theorem writePair_readPair : rf.writePair p (rf.readPair p) = rf := by cases p <;> rfl

end cells

section states

variable (s : State) (rf : RegFile) (v : Int) (e : ErrorKind) (rest : List Input) (x : Ext) (ext : Option Ext) (inp : Input)

@[simp] theorem answered_rf : (s.answered rf v).rf = rf := rfl
@[simp] theorem answered_params : (s.answered rf v).params = s.params := rfl
@[simp] theorem answered_extIn : (s.answered rf v).extIn = s.extIn := rfl
@[simp] theorem answered_pending : (s.answered rf v).pending = s.pending := rfl
@[simp] theorem answered_response : (s.answered rf v).response = some (Response.ofResult v) := rfl

@[simp] theorem raised_rf : (s.raised e).rf = s.rf := rfl
@[simp] theorem raised_params : (s.raised e).params = s.params := rfl
@[simp] theorem raised_extIn : (s.raised e).extIn = s.extIn := rfl
@[simp] theorem raised_pending : (s.raised e).pending = s.pending := rfl
@[simp] theorem raised_response : (s.raised e).response = some (Response.ofError e) := rfl

@[simp] theorem taken_rf : (s.taken rest).rf = s.rf := rfl
@[simp] theorem taken_params : (s.taken rest).params = s.params := rfl
@[simp] theorem taken_extIn : (s.taken rest).extIn = s.extIn := rfl
@[simp] theorem taken_pending : (s.taken rest).pending = rest := rfl
@[simp] theorem taken_response : (s.taken rest).response = s.response := rfl

@[simp] theorem takeCommand_rf : (s.takeCommand rest x).rf = s.rf := rfl
@[simp] theorem takeCommand_params : (s.takeCommand rest x).params = s.params := rfl
@[simp] theorem takeCommand_extIn : (s.takeCommand rest x).extIn = x := rfl
@[simp] theorem takeCommand_pending : (s.takeCommand rest x).pending = rest := rfl
@[simp] theorem takeCommand_response : (s.takeCommand rest x).response = s.response := rfl

@[simp] theorem hardReset_rf : (s.hardReset ext).rf = RegFile.powerOn ext := rfl
@[simp] theorem hardReset_params : (s.hardReset ext).params = s.params := rfl
@[simp] theorem hardReset_extIn : (s.hardReset ext).extIn = s.extIn := rfl
@[simp] theorem hardReset_pending : (s.hardReset ext).pending = s.pending := rfl
@[simp] theorem hardReset_response : (s.hardReset ext).response = s.response := rfl

@[simp] theorem sendFirst_rf : (s.sendFirst inp).rf = s.rf := rfl
@[simp] theorem sendFirst_params : (s.sendFirst inp).params = s.params := rfl
@[simp] theorem sendFirst_extIn : (s.sendFirst inp).extIn = s.extIn := rfl
@[simp] theorem sendFirst_pending : (s.sendFirst inp).pending = inp :: s.pending := rfl
@[simp] theorem sendFirst_response : (s.sendFirst inp).response = s.response := rfl

@[simp] theorem send_rf : (s.send inp).rf = s.rf := rfl
@[simp] theorem send_params : (s.send inp).params = s.params := rfl
@[simp] theorem send_extIn : (s.send inp).extIn = s.extIn := rfl
@[simp] theorem send_pending : (s.send inp).pending = s.pending ++ [inp] := rfl
@[simp] theorem send_response : (s.send inp).response = s.response := rfl

end states

end Sys2Proof.Machine
end

