-- ==== Sys2Proof/Laws/Flags.lean ====
section
/-! SUPPORT. The flags view: bytes of a pair, the byte of eight flags, and what each flag write keeps (10_state.md R29). -/

namespace Sys2Proof.Machine

open Sys2Proof

@[simp] theorem hiByte_joinBytes (h l : Byte) : hiByte (joinBytes h l) = h := by
  ext k hk
  have h8 : 8 + k < 16 ∧ k < 16 := by omega
  simp [hiByte, joinBytes, hk, h8]

@[simp] theorem loByte_joinBytes (h l : Byte) : loByte (joinBytes h l) = l := by
  ext k hk
  have h16 : k < 16 := by omega
  simp [loByte, joinBytes, hk, h16]

/-- A pair is its two halves (R22). -/
@[simp] theorem joinBytes_hiByte_loByte (w : Word) : joinBytes (hiByte w) (loByte w) = w := by
  ext k hk
  by_cases h : k < 8
  · simp [hiByte, loByte, joinBytes, h, hk]
  · have hk' : 8 + (k - 8) = k := by omega
    have hlt : k - 8 < 8 := by omega
    simp [hiByte, loByte, joinBytes, h, hk, hk', hlt]

/-- `{h, l}` as a number (00_scope.md section 6). -/
theorem toNat_joinBytes (h l : Byte) : (joinBytes h l).toNat = h.toNat * 256 + l.toNat := by
  have hh := h.isLt
  have hl := l.isLt
  have hor : h.toNat <<< 8 + l.toNat = h.toNat <<< 8 ||| l.toNat := Nat.shiftLeft_add_eq_or_of_lt hl _
  rw [Nat.shiftLeft_eq] at hor
  simp only [joinBytes, BitVec.toNat_or, BitVec.toNat_shiftLeft, BitVec.toNat_setWidth, Nat.shiftLeft_eq]
  rw [Nat.mod_eq_of_lt (a := h.toNat) (by omega), Nat.mod_eq_of_lt (a := l.toNat) (by omega), Nat.mod_eq_of_lt (by omega),
    ← hor]

theorem toNat_hiByte (w : Word) : (hiByte w).toNat = w.toNat / 256 := by
  have := w.isLt
  simp only [hiByte, BitVec.extractLsb'_toNat, Nat.shiftRight_eq_div_pow]
  omega

theorem toNat_loByte (w : Word) : (loByte w).toNat = w.toNat % 256 := by
  simp [loByte, BitVec.extractLsb'_toNat]

@[simp] theorem accu_writeFlags (rf : RegFile) (f : Byte) : (rf.writeFlags f).accu = rf.accu := by
  simp [RegFile.accu]

@[simp] theorem flags_writeFlags (rf : RegFile) (f : Byte) : (rf.writeFlags f).flags = f := by
  simp [RegFile.flags]

@[simp] theorem accu_mergeFlags (rf : RegFile) (en nf : Byte) : (rf.mergeFlags en nf).accu = rf.accu := by
  simp [RegFile.mergeFlags]

/-- Bit `k` of `F` after a write under an enable mask: new where enabled, kept elsewhere (R100). -/
theorem mergeFlags_bit (rf : RegFile) (en nf : Byte) (k : Nat) (hk : k < 8) :
    (rf.mergeFlags en nf).flags.getLsbD k = if en.getLsbD k then nf.getLsbD k else rf.flags.getLsbD k := by
  rw [RegFile.mergeFlags, flags_writeFlags, BitVec.getLsbD_or, BitVec.getLsbD_and, BitVec.getLsbD_and, BitVec.getLsbD_not]
  cases en.getLsbD k <;> simp only [hk, decide_true] <;> simp

/-- A flag write changes no cell but `AF` (R29). -/
theorem mergeFlags_frame (rf : RegFile) (en nf : Byte) :
    rf.mergeFlags en nf = { rf with af := (rf.mergeFlags en nf).af } := rfl

theorem writeFlags_frame (rf : RegFile) (f : Byte) : rf.writeFlags f = { rf with af := (rf.writeFlags f).af } := rfl

theorem writeBit_frame (rf : RegFile) (k : FlagBit) (b : Bool) :
    rf.writeBit k b = { rf with af := (rf.writeBit k b).af } := rfl

theorem writeGroup_frame (rf : RegFile) (g : GroupName) (b : Bool) :
    rf.writeGroup g b = { rf with af := (rf.writeGroup g b).af } := rfl

theorem writeFlag_frame (rf : RegFile) (k : FlagName) (b : Bool) :
    rf.writeFlag k b = { rf with af := (rf.writeFlag k b).af } := by cases k <;> rfl

theorem copyF5F3_frame (rf : RegFile) (v : Byte) : rf.copyF5F3 v = { rf with af := (rf.copyF5F3 v).af } := rfl

/-- A bit of `AF` after one flag is written: that flag's bit is new, every other bit is kept (R25). -/
theorem writeBit_bit (rf : RegFile) (k : FlagBit) (b : Bool) (j : Nat) (hj : j < 16) :
    (rf.writeBit k b).af.getLsbD j = if j = flagPos k then b else rf.af.getLsbD j := by
  have one : (1#16 <<< flagPos k).getLsbD j = decide (j = flagPos k) := by
    have hone : ∀ m < 16, (1#16 <<< flagPos k).getLsbD m = decide (m = flagPos k) := by
      cases k <;> decide
    exact hone j hj
  cases b
  · change (rf.af &&& ~~~(1#16 <<< flagPos k)).getLsbD j = _
    rw [BitVec.getLsbD_and, BitVec.getLsbD_not, one]
    by_cases h : j = flagPos k <;> simp only [h, hj, decide_true, decide_false, if_true, if_false] <;> simp
  · change (rf.af ||| (1#16 <<< flagPos k)).getLsbD j = _
    rw [BitVec.getLsbD_or, one]
    by_cases h : j = flagPos k <;> simp only [h, decide_true, decide_false, if_true, if_false] <;> simp

/-- A bit of `AF` after a group write: members are new, every other bit is kept (R28). -/
theorem writeGroup_bit (rf : RegFile) (g : GroupName) (b : Bool) (j : Nat) (hj : j < 16) :
    (rf.writeGroup g b).af.getLsbD j = if (groupMask g).getLsbD j then b else rf.af.getLsbD j := by
  cases h : (groupMask g).getLsbD j <;> cases b <;> simp [RegFile.writeGroup, h, hj]

section layout

variable (v : FlagVals)

@[simp] theorem toByte_s : v.toByte[7] = v.s := by
  obtain ⟨s, z, f5, h, f3, pv, n, c⟩ := v
  revert s z f5 h f3 pv n c; decide

@[simp] theorem toByte_z : v.toByte[6] = v.z := by
  obtain ⟨s, z, f5, h, f3, pv, n, c⟩ := v
  revert s z f5 h f3 pv n c; decide

@[simp] theorem toByte_f5 : v.toByte[5] = v.f5 := by
  obtain ⟨s, z, f5, h, f3, pv, n, c⟩ := v
  revert s z f5 h f3 pv n c; decide

@[simp] theorem toByte_h : v.toByte[4] = v.h := by
  obtain ⟨s, z, f5, h, f3, pv, n, c⟩ := v
  revert s z f5 h f3 pv n c; decide

@[simp] theorem toByte_f3 : v.toByte[3] = v.f3 := by
  obtain ⟨s, z, f5, h, f3, pv, n, c⟩ := v
  revert s z f5 h f3 pv n c; decide

@[simp] theorem toByte_pv : v.toByte[2] = v.pv := by
  obtain ⟨s, z, f5, h, f3, pv, n, c⟩ := v
  revert s z f5 h f3 pv n c; decide

@[simp] theorem toByte_n : v.toByte[1] = v.n := by
  obtain ⟨s, z, f5, h, f3, pv, n, c⟩ := v
  revert s z f5 h f3 pv n c; decide

@[simp] theorem toByte_c : v.toByte[0] = v.c := by
  obtain ⟨s, z, f5, h, f3, pv, n, c⟩ := v
  revert s z f5 h f3 pv n c; decide
theorem getLsbD_toByte_s : v.toByte.getLsbD 7 = v.s := by simp
theorem getLsbD_toByte_z : v.toByte.getLsbD 6 = v.z := by simp
theorem getLsbD_toByte_f5 : v.toByte.getLsbD 5 = v.f5 := by simp
theorem getLsbD_toByte_h : v.toByte.getLsbD 4 = v.h := by simp
theorem getLsbD_toByte_f3 : v.toByte.getLsbD 3 = v.f3 := by simp
theorem getLsbD_toByte_pv : v.toByte.getLsbD 2 = v.pv := by simp
theorem getLsbD_toByte_n : v.toByte.getLsbD 1 = v.n := by simp
theorem getLsbD_toByte_c : v.toByte.getLsbD 0 = v.c := by simp

end layout

end Sys2Proof.Machine
end

