-- ==== Sys2Proof/Laws/Ops.lean ====
section
/-! SUPPORT. What the shared operations can do: the operand checks, and the two ways a command ends. -/

namespace Sys2Proof.Machine

open Sys2Proof

section checks

variable {s t : State} {lo hi x : Int} {k : Host.Outcome State Fault Refusal}

theorem require_inside (h : lo ≤ x ∧ x ≤ hi) : s.require lo hi x k = k := if_pos h

theorem require_outside (h : ¬(lo ≤ x ∧ x ≤ hi)) : s.require lo hi x k = .next (s.raised .operandOutOfRange) := if_neg h

/-- A checked operand is inside its range and the command goes on, or it is outside and the command ends in the error. -/
theorem require_cases (h : s.require lo hi x k = .next t) :
    ((lo ≤ x ∧ x ≤ hi) ∧ k = .next t) ∨ (¬(lo ≤ x ∧ x ≤ hi) ∧ t = s.raised .operandOutOfRange) := by
  by_cases hx : lo ≤ x ∧ x ≤ hi
  · exact .inl ⟨hx, by rwa [require_inside hx] at h⟩
  · rw [require_outside hx] at h
    exact .inr ⟨hx, (Host.Outcome.next.inj h).symm⟩

variable {α : Type} {n : Option α} {f : α → Host.Outcome State Fault Refusal}

@[simp] theorem requireName_some (a : α) : s.requireName (some a) f = f a := rfl

@[simp] theorem requireName_none : s.requireName none f = .next (s.raised .unknownRegister) := rfl

/-- A tag names something and the command goes on, or it names nothing and the command ends in the error. -/
theorem requireName_cases (h : s.requireName n f = .next t) :
    (∃ a, n = some a ∧ f a = .next t) ∨ (n = none ∧ t = s.raised .unknownRegister) := by
  cases n with
  | some a => exact .inl ⟨a, rfl, h⟩
  | none => exact .inr ⟨rfl, (Host.Outcome.next.inj h).symm⟩

end checks

/-- The command ends in an answer or in an error, and nothing else happens (R2, R160). -/
def Ends (s : State) (o : Host.Outcome State Fault Refusal) : Prop :=
  (∃ rf v, o = .next (s.answered rf v)) ∨ ∃ e, o = .next (s.raised e)

theorem ends_answer (s : State) (rf : RegFile) (v : Int) : Ends s (s.answer rf v) := .inl ⟨rf, v, rfl⟩

theorem ends_require {s : State} {lo hi x : Int} {k : Host.Outcome State Fault Refusal} (h : Ends s k) :
    Ends s (s.require lo hi x k) := by
  by_cases hx : lo ≤ x ∧ x ≤ hi
  · rwa [require_inside hx]
  · exact .inr ⟨_, require_outside hx⟩

theorem ends_require8 {s : State} {x : Int} {k : Byte → Host.Outcome State Fault Refusal} (h : ∀ v, Ends s (k v)) :
    Ends s (s.require8 x k) := ends_require (h _)

theorem ends_require16 {s : State} {x : Int} {k : Word → Host.Outcome State Fault Refusal} (h : ∀ v, Ends s (k v)) :
    Ends s (s.require16 x k) := ends_require (h _)

theorem ends_requireName {s : State} {α : Type} {n : Option α} {f : α → Host.Outcome State Fault Refusal}
    (h : ∀ a, Ends s (f a)) : Ends s (s.requireName n f) := by
  cases n with
  | some a => exact h a
  | none => exact .inr ⟨_, rfl⟩

theorem toInt_byteOf {x : Int} (h : 0 ≤ x ∧ x ≤ 255) : ((byteOf x).toNat : Int) = x := by
  simp only [byteOf, BitVec.toNat_ofInt]
  omega

theorem toInt_wordOf {x : Int} (h : 0 ≤ x ∧ x ≤ 65535) : ((wordOf x).toNat : Int) = x := by
  simp only [wordOf, BitVec.toNat_ofInt]
  omega

end Sys2Proof.Machine
end

