-- ==== Sys2Proof/Laws/PerInstr.lean ====
section
/-! SUPPORT. The family `OpByte`: the `OP` field of every instruction's command word is its `OP` value of 30_encoding.md R55,
one lemma per constructor. -/

namespace Sys2Proof.Laws.OpByte

open Sys2Proof

/-- The word of `i` carries the `OP` value of `i`. -/
def Statement (i : Instr) : Prop := opField (encode i) = i.op

theorem get (sel : Byte) : Statement (.get sel) := opField_pack ..
theorem set (sel : Byte) (x : Int) : Statement (.set sel x) := opField_pack ..
theorem reset (ext : Bool) : Statement (.reset ext) := opField_pack ..
theorem fget (sel : Byte) : Statement (.fget sel) := opField_pack ..
theorem fset (sel : Byte) (x : Int) : Statement (.fset sel x) := opField_pack ..
theorem gset (sel : Byte) (x : Int) : Statement (.gset sel x) := opField_pack ..
theorem toSigned8 (x : Int) : Statement (.toSigned8 x) := opField_pack ..
theorem toSigned16 (x : Int) : Statement (.toSigned16 x) := opField_pack ..
theorem toUnsigned8 (x : Int) : Statement (.toUnsigned8 x) := opField_pack ..
theorem toUnsigned16 (x : Int) : Statement (.toUnsigned16 x) := opField_pack ..
theorem subtract8 (en : Byte) (x y : Int) : Statement (.subtract8 en x y) := opField_pack ..
theorem subtract8VC (x y : Int) : Statement (.subtract8VC x y) := opField_pack ..
theorem add8 (en : Byte) (x y : Int) : Statement (.add8 en x y) := opField_pack ..
theorem add16 (x y : Int) : Statement (.add16 x y) := opField_pack ..
theorem subtract16 (x y : Int) : Statement (.subtract16 x y) := opField_pack ..
theorem inc8 (x : Int) : Statement (.inc8 x) := opField_pack ..
theorem dec8 (x : Int) : Statement (.dec8 x) := opField_pack ..
theorem inc16 (x : Int) : Statement (.inc16 x) := opField_pack ..
theorem dec16 (x : Int) : Statement (.dec16 x) := opField_pack ..
theorem parity8 (x : Int) : Statement (.parity8 x) := opField_pack ..
theorem and_n (x : Int) : Statement (.and_n x) := opField_pack ..
theorem or_n (x : Int) : Statement (.or_n x) := opField_pack ..
theorem xor_n (x : Int) : Statement (.xor_n x) := opField_pack ..
theorem rotateLeftCarry (x : Int) : Statement (.rotateLeftCarry x) := opField_pack ..
theorem rotateLeft (x : Int) : Statement (.rotateLeft x) := opField_pack ..
theorem rotateRightCarry (x : Int) : Statement (.rotateRightCarry x) := opField_pack ..
theorem rotateRight (x : Int) : Statement (.rotateRight x) := opField_pack ..
theorem shiftLeft (x : Int) : Statement (.shiftLeft x) := opField_pack ..
theorem shiftLeftLogical (x : Int) : Statement (.shiftLeftLogical x) := opField_pack ..
theorem shiftRight (x : Int) : Statement (.shiftRight x) := opField_pack ..
theorem shiftRightLogical (x : Int) : Statement (.shiftRightLogical x) := opField_pack ..
theorem offsetPC (x : Int) : Statement (.offsetPC x) := opField_pack ..
theorem setF5F3 (x : Int) : Statement (.setF5F3 x) := opField_pack ..
theorem setF5F3FromAccumulator : Statement .setF5F3FromAccumulator := opField_pack ..

end Sys2Proof.Laws.OpByte
end

