-- ==== Sys2Proof/Laws/Step.lean ====
section
/-! SUPPORT. What a command and a step can do, said once. -/

namespace Sys2Proof.Machine

open Sys2Proof

/-- Every command ends in an answer or in an error: only the cells and the response can change. -/
theorem exec_ends (i : Instr) (s : State) : Ends s (exec i s) := by
  cases i <;> simp only [exec, execGet, execSet, execReset, execFget, execFset, execGset, execToSigned8, execToSigned16,
    execToUnsigned8, execToUnsigned16, execSubtract8, execSubtract8VC, subtract8With, execAdd8, execAdd16, execSubtract16,
    execInc8, execDec8, execInc16, execDec16, execParity8, execAndN, execOrN, execXorN, State.answerLogic,
    execRotateLeftCarry, execRotateLeft, execRotateRightCarry, execRotateRight, execShiftLeft, execShiftLeftLogical,
    execShiftRight, execShiftRightLogical, State.answerRotate, execOffsetPC, execSetF5F3, execSetF5F3FromAccumulator] <;>
  first
  | exact ends_answer ..
  | exact ends_requireName fun _ => ends_answer ..
  | exact ends_require (ends_answer ..)
  | exact ends_require8 fun _ => ends_answer ..
  | exact ends_require16 fun _ => ends_answer ..
  | exact ends_require8 fun _ => ends_require8 fun _ => ends_answer ..
  | exact ends_require16 fun _ => ends_require16 fun _ => ends_answer ..

section logic

variable {s t u : State} {x : Int}

/-- An accumulator operation writes its result to `A` (R121 to R123). -/
theorem accu_answerLogic {h : Bool} {r : Byte} (hx : s.answerLogic h r = .next t) : t.rf.accu = r := by
  cases hx
  exact hiByte_joinBytes ..

/-- The new `A` of an operation that checks its operand and writes `f` of `A` and it; kept where the check fails. -/
theorem accu_logic {h : Bool} {f : Byte → Byte → Byte}
    (hx : (s.require8 x fun n => s.answerLogic h (f s.rf.accu n)) = .next t) :
    t.rf.accu = if 0 ≤ x ∧ x ≤ 255 then f s.rf.accu (byteOf x) else s.rf.accu := by
  rcases require_cases hx with ⟨hr, hk⟩ | ⟨hr, rfl⟩
  · rw [if_pos hr, accu_answerLogic hk]
  · rw [if_neg hr]; rfl

/-- `and_n` twice with one operand leaves `A` as after the first (R47). -/
theorem and_n_twice (h : exec (.and_n x) s = .next t) (h' : exec (.and_n x) t = .next u) : u.rf.accu = t.rf.accu := by
  rw [accu_logic (f := (· &&& ·)) h', accu_logic (f := (· &&& ·)) h]
  split <;> simp [BitVec.and_assoc]

/-- `or_n` twice with one operand leaves `A` as after the first (R47). -/
theorem or_n_twice (h : exec (.or_n x) s = .next t) (h' : exec (.or_n x) t = .next u) : u.rf.accu = t.rf.accu := by
  rw [accu_logic (f := (· ||| ·)) h', accu_logic (f := (· ||| ·)) h]
  split <;> simp [BitVec.or_assoc]

/-- `xor_n` twice with one operand gives the old `A` back (R123; R47's remark says otherwise, log 12). -/
theorem xor_n_twice (h : exec (.xor_n x) s = .next t) (h' : exec (.xor_n x) t = .next u) : u.rf.accu = s.rf.accu := by
  rw [accu_logic (f := (· ^^^ ·)) h', accu_logic (f := (· ^^^ ·)) h]
  split <;> simp

end logic

section steps

variable {s t : State} {w : CommandWord} {e : Ext} {ext : Option Ext} {rest : List Input} {i : Instr} {op : Byte}

theorem step_idle (h : s.pending = []) : step s = .next s := by simp [step, h]

theorem step_resetLine (h : s.pending = .resetLine ext :: rest) : step s = .next ((s.taken rest).hardReset ext) := by
  simp [step, h]

theorem step_command (h : s.pending = .command w e :: rest) (hd : decode w = .instr i) :
    step s = exec i (s.takeCommand rest e) := by
  simp [step, h, hd]

theorem step_undefined (h : s.pending = .command w e :: rest) (hd : decode w = .undefinedOp op) :
    step s = .refused (.undefinedOp op) := by
  simp [step, h, hd]

/-- A step that goes on is one of three: nothing was sent, a reset pulse was taken, or a command was performed. -/
theorem step_cases (h : step s = .next t) :
    (s.pending = [] ∧ t = s) ∨
    (∃ ext rest, s.pending = .resetLine ext :: rest ∧ t = (s.taken rest).hardReset ext) ∨
    (∃ w e rest i, s.pending = .command w e :: rest ∧ decode w = .instr i ∧ exec i (s.takeCommand rest e) = .next t) := by
  match hp : s.pending with
  | [] =>
    rw [step_idle hp] at h
    exact .inl ⟨rfl, (Host.Outcome.next.inj h).symm⟩
  | .resetLine ext :: rest =>
    rw [step_resetLine hp] at h
    exact .inr (.inl ⟨ext, rest, rfl, (Host.Outcome.next.inj h).symm⟩)
  | .command w e :: rest =>
    match hd : decode w with
    | .instr i =>
      rw [step_command hp hd] at h
      exact .inr (.inr ⟨w, e, rest, i, rfl, hd, h⟩)
    | .undefinedOp op =>
      rw [step_undefined hp hd] at h
      exact nomatch h

end steps

/-- The step after `withFetchWord` performs exactly the command sent, at the state it was sent to. -/
theorem step_withFetchWord {s : State} {nbits w : Nat} {i : Instr} (h : decodeTableWord nbits w = some i) :
    step (s.withFetchWord nbits w) = exec i s := by
  unfold decodeTableWord at h
  split at h
  · rename_i j hj
    obtain rfl := Option.some.inj h
    exact step_command rfl hj
  · exact nomatch h

end Sys2Proof.Machine
end

