-- ==== Sys2Proof/Tests/Slice0.lean ====
section
/-! SUPPORT. Tests and witnesses. Every expected value is the spec's: the words of 30_encoding.md R50 to R59, the example lines
under the rules, and the tables of 95_test_vectors.md (the section is named above each group). -/

namespace Sys2Proof.Tests

open Sys2Proof Sys2Proof.Machine Sys2Proof.Claims

/-- The machine after reset, but with `AF = af`. -/
def withAf (af : Word) : State := { State.reset with rf := { State.reset.rf with af := af } }

/-- The machine after reset, but with `PC = pc` and `F = 0xA5`. -/
def withPc (pc : Word) : State := { State.reset with rf := { State.reset.rf with pc := pc, af := 0x00A5 } }

/-- The response word and the cells after one step on a command word; absent if the step is refused. -/
def stepOn (s : State) (w : Nat) : Option (Nat × RegFile) :=
  match step (s.withFetchWord 64 w) with
  | .next t => t.response.map fun r => (r.word.toNat, t.rf)
  | _ => none

/-- The step answers `res` and leaves `AF = af` and every other cell as it was. -/
def answersAF (s : State) (w res : Nat) (af : Word) : Bool :=
  decide (stepOn s w = some (res, { s.rf with af := af }))

/-- The step answers `res` and leaves every cell as it was. -/
def answersOnly (s : State) (w res : Nat) : Bool := decide (stepOn s w = some (res, s.rf))

/-! ### The syntax check refuses an ill-formed term, at each operand and each end of the field (R51). -/

/-- The instructions with one integer operand. -/
def oneOperand : List (Int → Instr) :=
  [.set 0x00, .fset 0x00, .gset 0x00, .toSigned8, .toSigned16, .toUnsigned8, .toUnsigned16, .inc8,
    .dec8, .inc16, .dec16, .parity8, .and_n, .or_n, .xor_n] ++
  [.rotateLeftCarry, .rotateLeft, .rotateRightCarry, .rotateRight, .shiftLeft,
    .shiftLeftLogical, .shiftRight, .shiftRightLogical, .offsetPC, .setF5F3]

/-- The instructions with two integer operands. -/
def twoOperands : List (Int → Int → Instr) := [.subtract8 0xFF, .subtract8VC, .add8 0xFF, .add16, .subtract16]

theorem test_wf_refuses_x_above_field : (oneOperand.all fun f => !(f 8388608).wf) = true := by decide
theorem test_wf_refuses_x_below_field : (oneOperand.all fun f => !(f (-8388609)).wf) = true := by decide
theorem test_wf_accepts_ends_of_field : (oneOperand.all fun f => (f 8388607).wf && (f (-8388608)).wf) = true := by decide
theorem test_wf_refuses_first_of_two : (twoOperands.all fun f => !(f 8388608 0).wf && !(f (-8388609) 0).wf) = true := by decide
theorem test_wf_refuses_second_of_two : (twoOperands.all fun f => !(f 0 8388608).wf && !(f 0 (-8388609)).wf) = true := by decide
theorem test_wf_accepts_two : (twoOperands.all fun f => (f 8388607 (-8388608)).wf) = true := by decide

/-! ### Each constructor's word, written out from R50 and R55 to R59 (`OP SEL XXXXXX YYYYYY`). -/

theorem test_decode_get : decode 0x0106000000000000 = .instr (.get 0x06) := by decide
theorem test_decode_set : decode 0x0202FFFFFF000000 = .instr (.set 0x02 (-1)) := by decide
theorem test_decode_reset : decode 0x0301000000000000 = .instr (.reset true) := by decide
theorem test_decode_fget : decode 0x0808000000000000 = .instr (.fget 0x08) := by decide
theorem test_decode_fset : decode 0x090AFFFFFF000000 = .instr (.fset 0x0A (-1)) := by decide
theorem test_decode_gset : decode 0x0A02000001000000 = .instr (.gset 0x02 1) := by decide
theorem test_decode_toSigned8 : decode 0x10000000FE000000 = .instr (.toSigned8 0xFE) := by decide
theorem test_decode_toSigned16 : decode 0x1100008000000000 = .instr (.toSigned16 0x8000) := by decide
theorem test_decode_toUnsigned8 : decode 0x1200FFFF7F000000 = .instr (.toUnsigned8 (-129)) := by decide
theorem test_decode_toUnsigned16 : decode 0x1300FF8000000000 = .instr (.toUnsigned16 (-32768)) := by decide
theorem test_decode_subtract8 : decode 0x20D7000012000034 = .instr (.subtract8 0xD7 0x12 0x34) := by decide
theorem test_decode_subtract8VC : decode 0x210000000500000A = .instr (.subtract8VC 0x05 0x0A) := by decide
theorem test_decode_add8 : decode 0x22FF000001FFFFFF = .instr (.add8 0xFF 0x01 (-1)) := by decide
theorem test_decode_add16 : decode 0x2300001234001111 = .instr (.add16 0x1234 0x1111) := by decide
theorem test_decode_subtract16 : decode 0x2400003800001000 = .instr (.subtract16 0x3800 0x1000) := by decide
theorem test_decode_inc8 : decode 0x28000000FF000000 = .instr (.inc8 0xFF) := by decide
theorem test_decode_dec8 : decode 0x2900FFFFFF000000 = .instr (.dec8 (-1)) := by decide
theorem test_decode_inc16 : decode 0x2A00010000000000 = .instr (.inc16 0x10000) := by decide
theorem test_decode_dec16 : decode 0x2B00008000000000 = .instr (.dec16 0x8000) := by decide
theorem test_decode_parity8 : decode 0x3000000003000000 = .instr (.parity8 0x03) := by decide
theorem test_decode_and_n : decode 0x31000000F0000000 = .instr (.and_n 0xF0) := by decide
theorem test_decode_or_n : decode 0x3200000008000000 = .instr (.or_n 0x08) := by decide
theorem test_decode_xor_n : decode 0x3300000055000000 = .instr (.xor_n 0x55) := by decide
theorem test_decode_rotateLeftCarry : decode 0x4000000080000000 = .instr (.rotateLeftCarry 0x80) := by decide
theorem test_decode_rotateLeft : decode 0x4100000080000000 = .instr (.rotateLeft 0x80) := by decide
theorem test_decode_rotateRightCarry : decode 0x4200000001000000 = .instr (.rotateRightCarry 0x01) := by decide
theorem test_decode_rotateRight : decode 0x4300000080000000 = .instr (.rotateRight 0x80) := by decide
theorem test_decode_shiftLeft : decode 0x44000000FF000000 = .instr (.shiftLeft 0xFF) := by decide
theorem test_decode_shiftLeftLogical : decode 0x4500000080000000 = .instr (.shiftLeftLogical 0x80) := by decide
theorem test_decode_shiftRight : decode 0x4600000081000000 = .instr (.shiftRight 0x81) := by decide
theorem test_decode_shiftRightLogical : decode 0x4700000081000000 = .instr (.shiftRightLogical 0x81) := by decide
theorem test_decode_offsetPC : decode 0x5000000002000000 = .instr (.offsetPC 0x02) := by decide
theorem test_decode_setF5F3 : decode 0x5100000008000000 = .instr (.setF5F3 0x08) := by decide
theorem test_decode_setF5F3FromAccumulator : decode 0x5200000000000000 = .instr .setF5F3FromAccumulator := by decide

/-- An undefined `OP` (R60), and the neighbours of the table's gaps. -/
theorem test_decode_undefined : decode 0 = .undefinedOp 0x00 ∧ decode 0x0400000000000000 = .undefinedOp 0x04 ∧
    decode 0x2500000000000000 = .undefinedOp 0x25 ∧ decode 0x5300000000000000 = .undefinedOp 0x53 ∧
    decode 0xFFFFFFFFFFFFFFFF = .undefinedOp 0xFF := by decide
theorem test_decodeTableWord : decodeTableWord 64 0x4100000080000000 = some (.rotateLeft 0x80) ∧
    decodeTableWord 64 0x5300000000000000 = none := by decide
theorem test_encode_negative : encode (.toUnsigned8 (-1)) = 0x1200FFFFFF000000 := by decide

/-! ### Register access (95_test_vectors.md section 2.1, and S1). -/

theorem test_get_halves :
    stepOn { State.reset with rf := { State.reset.rf with hl := 0x1234 } } 0x0106000000000000 =
      some (0x00000012, { State.reset.rf with hl := 0x1234 }) ∧
    stepOn { State.reset with rf := { State.reset.rf with iy := 0xBEEF } } 0x010B000000000000 =
      some (0x000000EF, { State.reset.rf with iy := 0xBEEF }) := by decide
theorem test_get_unknown :
    answersOnly State.reset 0x010E000000000000 0x01000000 = true ∧
    answersOnly State.reset 0x011C000000000000 0x01000000 = true := by decide
theorem test_set_masks :
    stepOn State.reset 0x0213012345000000 = some (0, { State.reset.rf with hl := 0x2345 }) ∧
    stepOn State.reset 0x0202FFFFFF000000 = some (0, { State.reset.rf with bc := 0xFF00 }) ∧
    stepOn State.reset 0x0223000006000000 = some (0, { State.reset.rf with im := 2 }) ∧
    stepOn State.reset 0x0221000002000000 = some (0, { State.reset.rf with iff := true }) := by decide
theorem test_set_shadow_and_unknown :
    stepOn State.reset 0x021A00FFFF000000 = some (0, { State.reset.rf with deShadow := 0xFFFF }) ∧
    answersOnly State.reset 0x0224000001000000 0x01000000 = true := by decide
theorem test_reset_clears :
    stepOn { withAf 0xFFFF with extIn := { token := 7 } } 0x0300000000000000 = some (0, RegFile.powerOn none) ∧
    stepOn { withAf 0xFFFF with extIn := { token := 7 } } 0x0301000000000000 = 
      some (0, RegFile.powerOn (some { token := 7 })) := by decide
theorem test_reset_line :
    (match step ((withAf 0xFFFF).sendFirst (.resetLine none)) with
    | .next t => decide (t.rf = RegFile.powerOn none)
    | _ => false) = true := by decide
theorem test_undefined_op_is_refused :
    (match step (State.reset.withFetchWord 64 0x5300000000000000) with
    | .refused (.undefinedOp op) => decide (op = 0x53)
    | _ => false) = true := by decide

/-! ### Flag access (95_test_vectors.md section 2.2 and S3). -/

theorem test_fget :
    answersAF (withAf 0xFF2F) 0x0809000000000000 0x00000001 0xFF2F = true ∧
    answersAF (withAf 0xFF2F) 0x0808000000000000 0x00000001 0xFF2F = true ∧
    answersAF (withAf 0xFF2F) 0x0806000000000000 0x00000000 0xFF2F = true := by decide
theorem test_fget_unknown :
    answersAF (withAf 0xFF2F) 0x080B000000000000 0x01000000 0xFF2F = true := by decide
theorem test_fset :
    answersAF (withAf 0xFF6F) 0x0908000001000000 0x00000000 0xFF2F = true ∧
    answersAF (withAf 0xFF2F) 0x0909000000000000 0x00000000 0xFF2B = true ∧
    answersAF (withAf 0xFF2B) 0x0908000000000000 0x00000000 0xFF6B = true := by decide
theorem test_fset_unknown :
    answersAF (withAf 0xFF2F) 0x090B000001000000 0x01000000 0xFF2F = true := by decide
theorem test_gset :
    answersAF (withAf 0xFFFF) 0x0A00000000000000 0x00000000 0xFF6D = true ∧
    answersAF (withAf 0xFF6D) 0x0A01000001000000 0x00000000 0xFF7F = true ∧
    answersAF (withAf 0xFF7F) 0x0A02000000000000 0x00000000 0xFF6C = true ∧
    answersAF (withAf 0xFF6C) 0x0A03000007000000 0x00000000 0xFF6F = true := by decide
theorem test_gset_unknown :
    answersAF (withAf 0xFF2F) 0x0A04000000000000 0x01000000 0xFF2F = true := by decide

/-! ### Conversions (95_test_vectors.md section 2.3). -/

theorem test_toSigned8 :
    answersAF (withAf 0x00A5) 0x1000000080000000 0x00FFFF80 0x00A5 = true ∧
    answersAF (withAf 0x00A5) 0x100000007F000000 0x0000007F 0x00A5 = true ∧
    answersAF (withAf 0x00A5) 0x1000000100000000 0x02000000 0x00A5 = true := by decide
theorem test_toSigned16 :
    answersAF (withAf 0x00A5) 0x1100008000000000 0x00FF8000 0x00A5 = true ∧
    answersAF (withAf 0x00A5) 0x110000FFFF000000 0x00FFFFFF 0x00A5 = true ∧
    answersAF (withAf 0x00A5) 0x1100010000000000 0x02000000 0x00A5 = true := by decide
theorem test_toUnsigned8 :
    answersAF (withAf 0x00A5) 0x1200FFFF80000000 0x00000080 0x00A5 = true ∧
    answersAF (withAf 0x00A5) 0x12000000FF000000 0x000000FF 0x00A5 = true ∧
    answersAF (withAf 0x00A5) 0x1200FFFF7F000000 0x02000000 0x00A5 = true ∧
    answersAF (withAf 0x00A5) 0x1200000100000000 0x02000000 0x00A5 = true := by decide
theorem test_toUnsigned16 :
    answersAF (withAf 0x00A5) 0x1300FF8000000000 0x00008000 0x00A5 = true ∧
    answersAF (withAf 0x00A5) 0x130000FFFF000000 0x0000FFFF 0x00A5 = true ∧
    answersAF (withAf 0x00A5) 0x1300FF7FFF000000 0x02000000 0x00A5 = true := by decide

/-! ### Add and subtract (95_test_vectors.md sections 2.4 to 2.7 and 2.11). -/

theorem test_subtract8 :
    answersAF (withAf 0x0000) 0x20FF000080000001 0x0000007F 0x003E = true ∧
    answersAF (withAf 0x0000) 0x20FF00007F0000FF 0x00000080 0x0087 = true ∧
    answersAF (withAf 0x0000) 0x20FF00000500000A 0x000000FB 0x00BB = true := by decide
theorem test_subtract8_mask :
    answersAF (withAf 0x00FF) 0x20FA000000000001 0x000000FF 0x00BF = true ∧
    answersAF (withAf 0x0028) 0x20D7000012000034 0x000000DE 0x00BB = true := by decide
theorem test_subtract8VC :
    answersAF (withAf 0x00FF) 0x210000000500000A 0x000000FB 0x00BB = true ∧
    answersAF (withAf 0x1200) 0x21000000A500005A 0x0000004B 0x121E = true := by decide
theorem test_add8 :
    answersAF (withAf 0x0000) 0x22FF00007F000001 0x00000080 0x0094 = true ∧
    answersAF (withAf 0x0000) 0x22FF0000FF0000FF 0x000000FE 0x00B9 = true ∧
    answersAF (withAf 0x0000) 0x22FF000080000080 0x00000000 0x0045 = true := by decide
theorem test_add8_mask_and_range :
    answersAF (withAf 0x00FF) 0x22FE0000FF000001 0x00000000 0x0051 = true ∧
    answersAF (withAf 0x0001) 0x22FA00007F000001 0x00000080 0x0091 = true ∧
    answersAF (withAf 0x00FF) 0x22FF000100000001 0x02000000 0x00FF = true ∧
    answersAF (withAf 0x00FF) 0x22FF000001FFFFFF 0x02000000 0x00FF = true := by decide
theorem test_add16 :
    answersAF (withAf 0x00FF) 0x2300001234001111 0x00002345 0x0020 = true ∧
    answersAF (withAf 0x00FF) 0x230000FFFF00FFFF 0x0000FFFE 0x00B9 = true ∧
    answersAF (withAf 0x0000) 0x2300000FFF000001 0x00001000 0x0010 = true := by decide
theorem test_add16_low :
    answersAF { withAf 0x00FF with params := { f35_16 := .low } } 0x2300002000000008 0x00002008 0x0008 = true := by decide
theorem test_subtract16 :
    answersAF (withAf 0x0000) 0x2400003800001000 0x00002800 0x002A = true ∧
    answersAF (withAf 0x0000) 0x2400007FFF00FFFF 0x00008000 0x0087 = true ∧
    answersAF (withAf 0x00FF) 0x2400010000000000 0x02000000 0x00FF = true := by decide
theorem test_subtract16_low :
    answersAF { withAf 0x0000 with params := { f35_16 := .low } } 0x2400001000000001 0x00000FFF 0x003A = true := by decide
theorem test_inc8 :
    answersAF (withAf 0x00A5) 0x28000000FF000000 0x00000000 0x00A5 = true ∧
    answersAF (withAf 0x00A5) 0x2800000100000000 0x02000000 0x00A5 = true := by decide
theorem test_dec8 :
    answersAF (withAf 0x00A5) 0x2900000000000000 0x000000FF 0x00A5 = true ∧
    answersAF (withAf 0x00A5) 0x2900FFFFFF000000 0x02000000 0x00A5 = true := by decide
theorem test_inc16 :
    answersAF (withAf 0x00A5) 0x2A0000FFFF000000 0x00000000 0x00A5 = true ∧
    answersAF (withAf 0x00A5) 0x2A00010000000000 0x02000000 0x00A5 = true := by decide
theorem test_dec16 :
    answersAF (withAf 0x00A5) 0x2B00000000000000 0x0000FFFF 0x00A5 = true ∧
    answersAF (withAf 0x00A5) 0x2B00000100000000 0x000000FF 0x00A5 = true := by decide

/-! ### Parity and logic (95_test_vectors.md section 2.8, S6, S8). -/

theorem test_parity8 :
    answersAF (withAf 0x00A5) 0x3000000000000000 0x00000001 0x00A5 = true ∧
    answersAF (withAf 0x00A5) 0x3000000001000000 0x00000000 0x00A5 = true ∧
    answersAF (withAf 0x00A5) 0x3000000055000000 0x00000001 0x00A5 = true ∧
    answersAF (withAf 0x00A5) 0x30000000FE000000 0x00000000 0x00A5 = true := by decide
theorem test_and_n :
    answersAF (withAf 0x0FFF) 0x31000000F0000000 0x00000000 0x0054 = true ∧
    answersAF (withAf 0x7FFF) 0x3100000001000000 0x00000001 0x0110 = true ∧
    answersAF (withAf 0xA500) 0x3100000081000000 0x00000081 0x8194 = true := by decide
theorem test_and_n_range :
    answersAF (withAf 0x0FFF) 0x3100FFFFFF000000 0x02000000 0x0FFF = true := by decide
theorem test_or_n :
    answersAF (withAf 0x0F00) 0x32000000F0000000 0x000000FF 0xFFAC = true ∧
    answersAF (withAf 0x20FF) 0x3200000008000000 0x00000028 0x282C = true := by decide
theorem test_xor_n :
    answersAF (withAf 0xFF00) 0x33000000FF000000 0x00000000 0x0044 = true ∧
    answersAF (withAf 0x81FF) 0x3300000001000000 0x00000080 0x8080 = true := by decide
/-- `xor_n 0x28` twice from `A = 0x28`: R123's corner case `n = A`, then the row `00`, `28` of section 2.8 (log 12). -/
theorem test_xor_n_again :
    answersAF (withAf 0x2800) 0x3300000028000000 0x00000000 0x0044 = true ∧
    answersAF (withAf 0x0044) 0x3300000028000000 0x00000028 0x282C = true := by decide

/-! ### Rotates and shifts (95_test_vectors.md section 2.9: rows `80,01`, `81,FF`, `AA,D7`, `01,00`). -/

theorem test_rotateLeftCarry :
    answersAF (withAf 0x3701) 0x4000000080000000 0x00000001 0x3701 = true ∧
    answersAF (withAf 0x37FF) 0x4000000081000000 0x00000003 0x372D = true ∧
    answersAF (withAf 0x37D7) 0x40000000AA000000 0x00000055 0x3705 = true ∧
    answersAF (withAf 0x3700) 0x4000000001000000 0x00000002 0x3700 = true := by decide
theorem test_rotateLeft :
    answersAF (withAf 0x3701) 0x4100000080000000 0x00000001 0x3701 = true ∧
    answersAF (withAf 0x37FF) 0x4100000081000000 0x00000003 0x372D = true ∧
    answersAF (withAf 0x37D7) 0x41000000AA000000 0x00000055 0x3705 = true ∧
    answersAF (withAf 0x3700) 0x4100000001000000 0x00000002 0x3700 = true := by decide
theorem test_rotateRightCarry :
    answersAF (withAf 0x3701) 0x4200000080000000 0x00000040 0x3700 = true ∧
    answersAF (withAf 0x37FF) 0x4200000081000000 0x000000C0 0x37AD = true ∧
    answersAF (withAf 0x37D7) 0x42000000AA000000 0x00000055 0x3704 = true ∧
    answersAF (withAf 0x3700) 0x4200000001000000 0x00000080 0x3781 = true := by decide
theorem test_rotateRight :
    answersAF (withAf 0x3701) 0x4300000080000000 0x000000C0 0x3784 = true ∧
    answersAF (withAf 0x37FF) 0x4300000081000000 0x000000C0 0x37AD = true ∧
    answersAF (withAf 0x37D7) 0x43000000AA000000 0x000000D5 0x3780 = true ∧
    answersAF (withAf 0x3700) 0x4300000001000000 0x00000000 0x3745 = true := by decide
theorem test_shiftLeft :
    answersAF (withAf 0x3701) 0x4400000080000000 0x00000000 0x3745 = true ∧
    answersAF (withAf 0x37FF) 0x4400000081000000 0x00000002 0x3729 = true ∧
    answersAF (withAf 0x37D7) 0x44000000AA000000 0x00000054 0x3701 = true ∧
    answersAF (withAf 0x3700) 0x4400000001000000 0x00000002 0x3700 = true := by decide
theorem test_shiftLeftLogical :
    answersAF (withAf 0x3701) 0x4500000080000000 0x00000001 0x3701 = true ∧
    answersAF (withAf 0x37FF) 0x4500000081000000 0x00000003 0x372D = true ∧
    answersAF (withAf 0x37D7) 0x45000000AA000000 0x00000055 0x3705 = true ∧
    answersAF (withAf 0x3700) 0x4500000001000000 0x00000003 0x3704 = true := by decide
theorem test_shiftRight :
    answersAF (withAf 0x3701) 0x4600000080000000 0x000000C0 0x3784 = true ∧
    answersAF (withAf 0x37FF) 0x4600000081000000 0x000000C0 0x37AD = true ∧
    answersAF (withAf 0x37D7) 0x46000000AA000000 0x000000D5 0x3780 = true ∧
    answersAF (withAf 0x3700) 0x4600000001000000 0x00000000 0x3745 = true := by decide
theorem test_shiftRightLogical :
    answersAF (withAf 0x3701) 0x4700000080000000 0x00000040 0x3700 = true ∧
    answersAF (withAf 0x37FF) 0x4700000081000000 0x00000040 0x3729 = true ∧
    answersAF (withAf 0x37D7) 0x47000000AA000000 0x00000055 0x3704 = true ∧
    answersAF (withAf 0x3700) 0x4700000001000000 0x00000000 0x3745 = true := by decide
theorem test_rotate_range :
    answersAF (withAf 0x37FF) 0x4000000100000000 0x02000000 0x37FF = true := by decide

/-! ### PC and F5F3 (95_test_vectors.md section 2.10). -/

theorem test_offsetPC :
    stepOn (withPc 0xFFFE) 0x5000000002000000 = some (0x00000000, (withPc 0x0000).rf) ∧
    stepOn (withPc 0x1000) 0x5000000080000000 = some (0x00000F80, (withPc 0x0F80).rf) ∧
    stepOn (withPc 0x0000) 0x50000000FE000000 = some (0x0000FFFE, (withPc 0xFFFE).rf) := by decide
theorem test_offsetPC_range :
    stepOn (withPc 0x1000) 0x5000000100000000 = some (0x02000000, (withPc 0x1000).rf) ∧
    stepOn (withPc 0x1000) 0x5000FFFFFE000000 = some (0x02000000, (withPc 0x1000).rf) := by decide
theorem test_setF5F3 :
    answersAF (withAf 0x00D7) 0x5100000008000000 0x00000000 0x00DF = true ∧
    answersAF (withAf 0x00FF) 0x5100000000000000 0x00000000 0x00D7 = true ∧
    answersAF (withAf 0x0000) 0x5100000100000000 0x02000000 0x0000 = true := by decide
theorem test_setF5F3FromAccumulator :
    answersAF (withAf 0x28D7) 0x5200000000000000 0x00000000 0x28FF = true ∧
    answersAF (withAf 0xD7FF) 0x5200000000000000 0x00000000 0xD7D7 = true := by decide

/-! ### The assembler (30_encoding.md R62, R63). -/

theorem test_assemble_set : assembleLine "set A, 0x0F                 ; 02 00 00000F 000000" = some [.set 0x00 0x0F] := by decide
theorem test_assemble_mask : assembleLine "subtract8 0x10, 0x01, EN=0xFF   ; 20" = some [.subtract8 0xFF 16 1] := by decide
theorem test_assemble_negative : assembleLine "toUnsigned8 -1              ;" = some [.toUnsigned8 (-1)] := by decide
theorem test_assemble_reset : assembleLine "reset ext " = some [.reset true] := by decide
theorem test_assemble_toggles : assembleLine "subtract8 1, 2, PV=0, C=0" = some [.subtract8 0xFA 1 2] := by decide
theorem test_assemble_shadow : assembleLine "set AF', 0xABCD" = some [.set 0x18 0xABCD] := by decide
theorem test_assemble_none : assembleLine " setF5F3FromAccumulator" = some [.setF5F3FromAccumulator] := by decide
theorem test_assemble_too_wide : assembleLine "inc8 99999999" = none := by decide
theorem test_construct : construct true [(0x10, 0x1234), (0x16, -2)] = [.reset true, .set 0x10 0x1234, .set 0x16 (-2)] := by decide

/-! ### Witnesses: for each statement with hypotheses, operands and a state that meet them, at the ends of each clause. -/

/-- A state that sends one command word. -/
def sending (w : CommandWord) : State := { State.reset with pending := [.command w { token := 3 }] }


theorem witness_DecodeOfEncode :
    (Instr.add8 0xFF 8388607 (-8388608)).wf = true := by decide
theorem witness_EncodeOfDecode :
    decode 0x22FF7FFFFF800000 = .instr (.add8 0xFF 8388607 (-8388608)) := by decide
theorem witness_UnreadFieldsAreIgnored :
    decode 0x2800000005000000 = .instr (.inc8 5) ∧
      (0x2800000005000000 : CommandWord) &&& (Instr.inc8 5).format.mask = 0x28FF000005FFFFFF &&& (Instr.inc8 5).format.mask :=
  by decide
theorem witness_UndefinedOpsAreRefused :
    (sending 0xFF00000000000000).pending = [.command 0xFF00000000000000 { token := 3 }] ∧
      UndefinedOp ((0xFF00000000000000 : CommandWord).toNat / 2 ^ 56) ∧ UndefinedOp ((0 : CommandWord).toNat / 2 ^ 56) ∧
      ¬UndefinedOp ((0x5200000000000000 : CommandWord).toNat / 2 ^ 56) := by
  unfold UndefinedOp; decide
theorem witness_StepRunsDecodedCommand :
    (sending 0x0106000000000000).pending = [.command 0x0106000000000000 { token := 3 }] ∧
      decode 0x0106000000000000 = .instr (.get 0x06) := by decide
theorem witness_StepsWithoutACommand :
    State.reset.pending = [] ∧
      (State.reset.sendFirst (.resetLine none)).pending = [.resetLine none] := by decide
theorem witness_StepKeepsInvariant :
    (sending 0x0106000000000000).responseWf = true ∧ (sending 0x0106000000000000).safe = true ∧
      ∃ t, step (sending 0x0106000000000000) = .next t := ⟨rfl, by decide, _, rfl⟩
theorem witness_SafeRunTakesEveryInput :
    (sending 0x0106000000000000).safe = true := by decide
theorem witness_ErrorLeavesStateUnchanged :
    ∃ t r, exec (.get 0xFF) State.reset = .next t ∧ t.response = some r ∧ r.status ≠ .done := ⟨_, _, rfl, rfl, by decide⟩
theorem witness_UnknownTagsAnswerUnknownRegister :
    BadTag (.get 0x0E) ∧ BadTag (.set 0x1F 0) ∧ BadTag (.get 0x24) ∧ BadTag (.fget 0x0B) ∧
      BadTag (.fset 0xFF 1) ∧ BadTag (.gset 0x04 0) ∧
      ¬BadTag (.get 0x23) ∧ ¬BadTag (.fget 0x0A) ∧ ¬BadTag (.gset 0x03 0) ∧
      ∃ t r, exec (.get 0x23) State.reset = .next t ∧ t.response = some r := by
  refine ⟨?_, ?_, ?_, ?_, ?_, ?_, ?_, ?_, ?_, _, _, rfl, rfl⟩ <;> simp [BadTag]
theorem witness_OperandsOutOfRangeAnswerError :
    ¬OperandsInRange (.inc8 256) ∧ ¬OperandsInRange (.toUnsigned8 (-129)) ∧ ¬OperandsInRange (.add16 0 65536) ∧
      OperandsInRange (.inc8 255) ∧ OperandsInRange (.toUnsigned16 (-32768)) ∧
      ∃ t r, exec (.inc8 255) State.reset = .next t ∧ t.response = some r := by
  refine ⟨?_, ?_, ?_, ?_, ?_, _, _, rfl, rfl⟩ <;> simp [OperandsInRange, within]
theorem witness_CellsChangeOnlyByTheirWriters :
    (∀ e, Instr.set 0x16 5 ≠ .reset e) ∧ ∃ t, exec (.set 0x16 5) State.reset = .next t ∧ t.rf.sp ≠ State.reset.rf.sp :=
  ⟨fun _ => nofun, _, rfl, by decide⟩
theorem witness_FlagsChangeOnlyAsTabled :
    (mayWriteFlags (.setF5F3 0x28)).getLsbD 6 = false ∧ (4, true) ∈ constantFlags (.and_n 0) ∧
      ∃ t r, exec (.and_n 0) (withAf 0xFF00) = .next t ∧ accu t.rf ≠ accu (withAf 0xFF00).rf ∧
        t.response = some r ∧ r.status = .done := ⟨by decide, by decide, _, _, rfl, by decide, rfl, by decide⟩
theorem witness_OtherAnswersIgnoreFlags :
    readsFlags (.inc8 255) = false ∧ (∃ t, exec (.inc8 255) (withAf 0xFF00) = .next t) ∧
      ∃ t, exec (.inc8 255) { withAf 0xFF00 with rf := withF (withAf 0xFF00).rf 0xFF } = .next t := ⟨rfl, ⟨_, rfl⟩, _, rfl⟩
theorem witness_PowerIsNeverRead :
    (∃ t, exec (.set 0x16 5) State.reset = .next t) ∧ (∀ e, Instr.set 0x16 5 ≠ .reset e) ∧
      (∃ t, exec (.reset true) State.reset = .next t) ∧ ∃ e, Instr.reset true = .reset e :=
  ⟨⟨_, rfl⟩, fun _ => nofun, ⟨_, rfl⟩, true, rfl⟩
theorem witness_GetReadsItsRegister :
    registerValue State.reset.rf (0x23 : Byte).toNat = some 0 ∧ registerValue State.reset.rf (0x24 : Byte).toNat = none :=
  by decide
theorem witness_SetWritesItsRegister :
    registerWritten State.reset.rf (0x23 : Byte).toNat 7 = some { State.reset.rf with im := 3 } ∧
      registerWritten State.reset.rf (0x0E : Byte).toNat 7 = none := by decide
theorem witness_GetAfterSet :
    ¬BadTag (.get 0x0D) ∧ ¬BadTag (.get 0x10) ∧ ¬BadTag (.get 0x1B) ∧ ¬BadTag (.get 0x20) ∧ ¬BadTag (.get 0x23) :=
  by simp [BadTag]
theorem witness_PairIsHighHalfThenLowHalf :
    (5 < 6) ∧ within 0 65535 65535 ∧ within 0 65535 0 ∧ within 0 255 255 := by decide
theorem witness_SetLeavesUnrelatedRegisters :
    (∃ t, exec (.set 0x02 5) State.reset = .next t) ∧ shareBits 0x02 0x03 = false ∧ shareBits 0x02 0x11 = true ∧
      (0x02 : Byte) ≠ 0x01 ∧ (0x02 : Byte) ≠ 0x10 := ⟨⟨_, rfl⟩, by decide⟩
theorem witness_SetIsIdempotentAndReadsAreSilent :
    (∃ t, exec (.set 0x02 5) State.reset = .next t) ∧ (∃ t, exec (.get 0x02) State.reset = .next t) ∧
      ∃ t, exec (.fget 0x08) State.reset = .next t := ⟨⟨_, rfl⟩, ⟨_, rfl⟩, _, rfl⟩
theorem witness_FgetReadsItsFlag :
    flagTagBit (0x0A : Byte).toNat = some 2 ∧ flagTagBit (0x08 : Byte).toNat = some 6 ∧ flagTagBit (0x0B : Byte).toNat = none :=
  by decide
theorem witness_FsetWritesOneFlag :
    flagTagBit (0x07 : Byte).toNat = some 7 ∧ flagTagBit (0x09 : Byte).toNat = some 2 ∧ flagTagBit (0xFF : Byte).toNat = none :=
  by decide
theorem witness_GsetWritesItsMembers :
    groupBits (0x03 : Byte).toNat = some [1, 0] ∧ groupBits (0x04 : Byte).toNat = none := by decide
theorem witness_Subtract8WritesEnabledFlags :
    (within 0 255 255 ∧ within 0 255 0) ∧ ¬(within 0 255 256 ∧ within 0 255 0) ∧ ¬(within 0 255 0 ∧ within 0 255 (-1)) :=
  by decide
theorem witness_Subtract8VCWritesAllFlags :
    (within 0 255 255 ∧ within 0 255 0) ∧ ¬(within 0 255 256 ∧ within 0 255 0) ∧ ¬(within 0 255 0 ∧ within 0 255 (-1)) :=
  by decide
theorem witness_Add8WritesEnabledFlags :
    (within 0 255 255 ∧ within 0 255 0) ∧ ¬(within 0 255 256 ∧ within 0 255 0) ∧ ¬(within 0 255 0 ∧ within 0 255 (-1)) :=
  by decide
theorem witness_Add16WritesAllFlags :
    (within 0 65535 65535 ∧ within 0 65535 0) ∧ ¬(within 0 65535 65536 ∧ within 0 65535 0) ∧
      ¬(within 0 65535 0 ∧ within 0 65535 (-1)) := by decide
theorem witness_Subtract16WritesAllFlags :
    (within 0 65535 65535 ∧ within 0 65535 0) ∧ ¬(within 0 65535 65536 ∧ within 0 65535 0) ∧
      ¬(within 0 65535 0 ∧ within 0 65535 (-1)) := by decide
theorem witness_IncDec8OnlyCompute :
    within 0 255 0 ∧ within 0 255 255 ∧ ¬within 0 255 256 ∧ ¬within 0 255 (-1) := by decide
theorem witness_Parity8CountsBits :
    within 0 255 0 ∧ within 0 255 255 ∧ ¬within 0 255 256 ∧ ¬within 0 255 (-1) := by decide
theorem witness_AndNRewritesAF :
    within 0 255 0 ∧ within 0 255 255 ∧ ¬within 0 255 256 ∧ ¬within 0 255 (-1) := by decide
theorem witness_OrNRewritesAF :
    within 0 255 0 ∧ within 0 255 255 ∧ ¬within 0 255 256 ∧ ¬within 0 255 (-1) := by decide
theorem witness_XorNRewritesAF :
    within 0 255 0 ∧ within 0 255 255 ∧ ¬within 0 255 256 ∧ ¬within 0 255 (-1) := by decide
theorem witness_RotateLeftCarryMovesBit7 :
    within 0 255 0 ∧ within 0 255 255 ∧ ¬within 0 255 256 ∧ ¬within 0 255 (-1) := by decide
theorem witness_RotateLeftTakesOldCarry :
    within 0 255 0 ∧ within 0 255 255 ∧ ¬within 0 255 256 ∧ ¬within 0 255 (-1) := by decide
theorem witness_RotateRightCarryMovesBit0 :
    within 0 255 0 ∧ within 0 255 255 ∧ ¬within 0 255 256 ∧ ¬within 0 255 (-1) := by decide
theorem witness_RotateRightTakesOldCarry :
    within 0 255 0 ∧ within 0 255 255 ∧ ¬within 0 255 256 ∧ ¬within 0 255 (-1) := by decide
theorem witness_ShiftLeftEntersZero :
    within 0 255 0 ∧ within 0 255 255 ∧ ¬within 0 255 256 ∧ ¬within 0 255 (-1) := by decide
theorem witness_ShiftLeftLogicalEntersOne :
    within 0 255 0 ∧ within 0 255 255 ∧ ¬within 0 255 256 ∧ ¬within 0 255 (-1) := by decide
theorem witness_ShiftRightKeepsSign :
    within 0 255 0 ∧ within 0 255 255 ∧ ¬within 0 255 256 ∧ ¬within 0 255 (-1) := by decide
theorem witness_ShiftRightLogicalEntersZero :
    within 0 255 0 ∧ within 0 255 255 ∧ ¬within 0 255 256 ∧ ¬within 0 255 (-1) := by decide
theorem witness_OffsetPCAddsSignedByte :
    within 0 255 0 ∧ within 0 255 255 ∧ ¬within 0 255 256 ∧ ¬within 0 255 (-1) := by decide
theorem witness_SetF5F3CopiesTwoBits :
    within 0 255 0 ∧ within 0 255 255 ∧ ¬within 0 255 256 ∧ ¬within 0 255 (-1) := by decide
theorem witness_IncDec16OnlyCompute :
    within 0 65535 0 ∧ within 0 65535 65535 ∧ ¬within 0 65535 65536 ∧ ¬within 0 65535 (-1) := by decide
theorem witness_ToSignedReadsTwosComplement :
    within 0 255 255 ∧ ¬within 0 255 256 ∧ within 0 65535 65535 ∧ ¬within 0 65535 (-1) := by decide
theorem witness_ToUnsigned8GivesPattern :
    within (-128) 255 (-128) ∧ within (-128) 255 255 ∧ ¬within (-128) 255 (-129) ∧ ¬within (-128) 255 256 := by decide
theorem witness_ToUnsigned16GivesPattern :
    within (-32768) 65535 (-32768) ∧ within (-32768) 65535 65535 ∧ ¬within (-32768) 65535 (-32769) ∧
      ¬within (-32768) 65535 65536 := by decide
theorem witness_ConversionsRoundTrip :
    within 0 255 255 ∧ within 0 65535 65535 := by decide
theorem witness_AddUndoesSubtract :
    within 0 255 0 ∧ within 0 255 255 := by decide
theorem witness_RotationRingsClose :
    within 0 255 255 := by decide
theorem witness_RotateRightUndoesRotateLeft :
    within 0 255 255 := by decide
theorem witness_OppositeOffsetsRestorePC :
    within 0 255 127 ∧ (127 : Int) ≠ 128 ∧ within 0 255 129 := by decide
/-- The state a construction is sent to. -/
def constructing : State :=
  { State.reset with pending := (construct true [(0x10, 0x1234), (0x30, 7)]).map fun i => .command (encode i) { token := 0 } }
theorem witness_ConstructionSetsEntriesInOrder :
    (∀ e ∈ [((0x10 : Byte), (0x1234 : Int)), (0x30, 7)], fits24 e.2) ∧
      constructing.pending = (construct true [(0x10, 0x1234), (0x30, 7)]).map fun i => .command (encode i) constructing.extIn := by
  decide

end Sys2Proof.Tests
end

/-! PROOFS. The scope of the block (00_scope.md): one step, what an error leaves behind, and which command changes which
cell. -/

namespace Sys2Proof.Machine

open Sys2Proof Sys2Proof.Claims

/-! ### The step -/

/-- The cells of R31, written out. -/
theorem powerOn_eq_zeroCells (ext : Option Ext) : RegFile.powerOn ext = zeroCells ext := rfl

/-- Settles O6: `takeCommand` is the state the statement writes out. -/
theorem stepRunsDecodedCommand : Obligations.StepRunsDecodedCommand :=
  fun _ _ _ _ _ hpending hdecode => step_command hpending hdecode

/-- Settles O7: the idle step, and the pulse of the reset input. -/
theorem stepsWithoutACommand : Obligations.StepsWithoutACommand := by
  refine ⟨fun _ => step_idle, fun s ext rest hpending => ?_⟩
  rw [step_resetLine hpending, State.hardReset, powerOn_eq_zeroCells]
  rfl

/-! ### Register names: their tags, and what a write through one leaves alone -/

/-- The tag of a register name (R56). -/
def tagOfReg : RegName → Byte
  | .high .af => 0x00
  | .low .af => 0x01
  | .high .bc => 0x02
  | .low .bc => 0x03
  | .high .de => 0x04
  | .low .de => 0x05
  | .high .hl => 0x06
  | .low .hl => 0x07
  | .high .ix => 0x08
  | .low .ix => 0x09
  | .high .iy => 0x0A
  | .low .iy => 0x0B
  | .i => 0x0C
  | .r => 0x0D
  | .pair .af => 0x10
  | .pair .bc => 0x11
  | .pair .de => 0x12
  | .pair .hl => 0x13
  | .pair .ix => 0x14
  | .pair .iy => 0x15
  | .sp => 0x16
  | .pc => 0x17
  | .shadow .af => 0x18
  | .shadow .bc => 0x19
  | .shadow .de => 0x1A
  | .shadow .hl => 0x1B
  | .halt => 0x20
  | .iff => 0x21
  | .iff2 => 0x22
  | .im => 0x23

/-- `tagOfReg` is the other direction of `regOfTag`: each name has one tag. -/
theorem regOfTag_eq_some_iff {t : Byte} {n : RegName} : regOfTag t = some n ↔ t = tagOfReg n := by
  constructor
  · intro h
    unfold regOfTag at h
    split at h <;> cases h <;> rfl
  · rintro rfl
    cases n with
    | high p | low p | pair p => cases p <;> rfl
    | shadow q => cases q <;> rfl
    | sp | pc | i | r | halt | iff | iff2 | im => rfl

section write

variable {rf : RegFile} {n : RegName} {v : Int}

theorem write_readPair_changes {p : Pair} (h : (rf.write n v).readPair p ≠ rf.readPair p) :
    n = .high p ∨ n = .low p ∨ n = .pair p := by
  cases n with
  | high p' | low p' | pair p' =>
    have hp : p' = p := by_contra fun hne => h (readPair_writePair_other _ _ hne)
    simp [hp]
  | shadow q => exact absurd (readPair_writeShadow ..) h
  | sp | pc | i | r | halt | iff | iff2 | im => cases p <;> exact absurd rfl h

theorem write_readShadow_changes {q : Shadow} (h : (rf.write n v).readShadow q ≠ rf.readShadow q) : n = .shadow q := by
  cases n with
  | high p | low p | pair p => exact absurd (readShadow_writePair ..) h
  | shadow q' =>
    have hq : q' = q := by_contra fun hne => h (readShadow_writeShadow_other _ _ hne)
    rw [hq]
  | sp | pc | i | r | halt | iff | iff2 | im => cases q <;> exact absurd rfl h

theorem write_sp_changes (h : (rf.write n v).sp ≠ rf.sp) : n = .sp := by
  cases n <;> simp [RegFile.write] at h ⊢

theorem write_pc_changes (h : (rf.write n v).pc ≠ rf.pc) : n = .pc := by
  cases n <;> simp [RegFile.write] at h ⊢

theorem write_i_changes (h : (rf.write n v).i ≠ rf.i) : n = .i := by
  cases n <;> simp [RegFile.write] at h ⊢

theorem write_r_changes (h : (rf.write n v).r ≠ rf.r) : n = .r := by
  cases n <;> simp [RegFile.write] at h ⊢

theorem write_halt_changes (h : (rf.write n v).halt ≠ rf.halt) : n = .halt := by
  cases n <;> simp [RegFile.write] at h ⊢

theorem write_iff_changes (h : (rf.write n v).iff ≠ rf.iff) : n = .iff := by
  cases n <;> simp [RegFile.write] at h ⊢

theorem write_iff2_changes (h : (rf.write n v).iff2 ≠ rf.iff2) : n = .iff2 := by
  cases n <;> simp [RegFile.write] at h ⊢

theorem write_im_changes (h : (rf.write n v).im ≠ rf.im) : n = .im := by
  cases n <;> simp [RegFile.write] at h ⊢

/-- No register name reaches `power` (D14). -/
@[simp] theorem write_power : (rf.write n v).power = rf.power := by
  cases n <;> simp [RegFile.write]

end write

/-! ### The flags a command may write, for the commands whose mask is in an operand -/

theorem mayWriteFlags_fset {sel : Byte} {x : Int} {k : FlagName} (h : flagOfTag sel = some k) :
    mayWriteFlags (.fset sel x) = 1#8 <<< flagNameBit k := by
  unfold flagOfTag at h
  split at h <;> cases h <;> rfl

theorem mayWriteFlags_gset {sel : Byte} {x : Int} {g : GroupName} (h : groupOfTag sel = some g) :
    mayWriteFlags (.gset sel x) = groupMask g := by
  unfold groupOfTag at h
  split at h <;> cases h <;> rfl

/-- Writing the flags they already are changes nothing. -/
@[simp] theorem writeFlags_flags (rf : RegFile) : rf.writeFlags rf.flags = rf := by
  simp [RegFile.writeFlags, RegFile.accu, RegFile.flags]

/-- A write with no flag enabled changes nothing (R100). -/
@[simp] theorem mergeFlags_zero (rf : RegFile) (nf : Byte) : rf.mergeFlags 0 nf = rf := by
  have hkeep : rf.flags &&& ~~~(0 : Byte) ||| nf &&& 0 = rf.flags := by
    rw [show ~~~(0 : Byte) = BitVec.allOnes 8 from rfl, BitVec.and_allOnes]
    simp
  rw [RegFile.mergeFlags, hkeep, writeFlags_flags]

/-! ### The cells after a command -/

/-- What command `i` can make of the cells `rf`. -/
inductive CellChange (rf : RegFile) : Instr → RegFile → Prop
  | kept {i : Instr} : CellChange rf i rf
  | reset (opt : Bool) (ext : Option Ext) : CellChange rf (.reset opt) (RegFile.powerOn ext)
  | set (n : RegName) (x : Int) : CellChange rf (.set (tagOfReg n) x) (rf.write n x)
  | jump (x : Int) (pc : Word) : CellChange rf (.offsetPC x) { rf with pc := pc }
  | flags {i : Instr} (hi : mayWriteFlags i ≠ 0) (af : Word) : CellChange rf i { rf with af := af }

/-- A write under an enable mask that is the command's own: with no flag enabled nothing is written. -/
theorem cellChange_mergeFlags {i : Instr} {en : Byte} (hi : mayWriteFlags i = en) (rf : RegFile) (nf : Byte) :
    CellChange rf i (rf.mergeFlags en nf) := by
  by_cases hen : en = 0
  · rw [hen, mergeFlags_zero]
    exact .kept
  · exact .flags (hi ▸ hen) _

theorem cellChange_writeFlag {sel : Byte} {x : Int} {k : FlagName} (hk : flagOfTag sel = some k) (rf : RegFile) (b : Bool) :
    CellChange rf (.fset sel x) (rf.writeFlag k b) := by
  rw [writeFlag_frame]
  refine .flags ?_ _
  rw [mayWriteFlags_fset hk]
  cases k with
  | bit j => cases j <;> decide
  | notZ | p | v => decide

theorem cellChange_writeGroup {sel : Byte} {x : Int} {g : GroupName} (hg : groupOfTag sel = some g) (rf : RegFile) (b : Bool) :
    CellChange rf (.gset sel x) (rf.writeGroup g b) := by
  refine .flags ?_ _
  rw [mayWriteFlags_gset hg]
  cases g <;> decide

theorem cellChange_write {sel : Byte} {n : RegName} (hn : regOfTag sel = some n) (rf : RegFile) (x : Int) :
    CellChange rf (.set sel x) (rf.write n x) := by
  rw [regOfTag_eq_some_iff.1 hn]
  exact .set n x

/-! ### What a command can do -/

/-- `f` ends in one and the same error from every state, or it is answered from every state with a change of the cells that
is `i`'s to make. -/
def ErrsOrChanges (i : Instr) (f : State → Host.Outcome State Fault Refusal) : Prop :=
  (∃ e, ∀ s, f s = .next (s.raised e)) ∨ ∀ s, ∃ rf v, f s = .next (s.answered rf v) ∧ CellChange s.rf i rf

section errsOrChanges

variable {i : Instr} {lo hi x : Int}

theorem errsOrChanges_answer {rf : State → RegFile} {v : State → Int} (h : ∀ s, CellChange s.rf i (rf s)) :
    ErrsOrChanges i fun s => s.answer (rf s) (v s) := .inr fun s => ⟨rf s, v s, rfl, h s⟩

theorem errsOrChanges_require {f : State → Host.Outcome State Fault Refusal} (h : ErrsOrChanges i f) :
    ErrsOrChanges i fun s => s.require lo hi x (f s) := by
  by_cases hx : lo ≤ x ∧ x ≤ hi
  · simpa only [require_inside hx] using h
  · exact .inl ⟨_, fun _ => require_outside hx⟩

theorem errsOrChanges_require8 {f : State → Byte → Host.Outcome State Fault Refusal}
    (h : ∀ v, ErrsOrChanges i fun s => f s v) : ErrsOrChanges i fun s => s.require8 x (f s) := errsOrChanges_require (h _)

theorem errsOrChanges_require16 {f : State → Word → Host.Outcome State Fault Refusal}
    (h : ∀ v, ErrsOrChanges i fun s => f s v) : ErrsOrChanges i fun s => s.require16 x (f s) := errsOrChanges_require (h _)

theorem errsOrChanges_requireName {α : Type} {n : Option α} {f : State → α → Host.Outcome State Fault Refusal}
    (h : ∀ a, n = some a → ErrsOrChanges i fun s => f s a) : ErrsOrChanges i fun s => s.requireName n (f s) := by
  cases n with
  | some a => exact h a rfl
  | none => exact .inl ⟨_, fun _ => requireName_none⟩

end errsOrChanges

/-- Tags and operands are checked against the command alone (R161, R162), so the state has no say in whether it errs; and each
command writes no cells but its own (R33). -/
theorem exec_errsOrChanges (i : Instr) : ErrsOrChanges i fun s => exec i s := by
  cases i with dsimp only [exec, execGet, execSet, execReset, execFget, execFset, execGset, execToSigned8, execToSigned16,
    execToUnsigned8, execToUnsigned16, execSubtract8, execSubtract8VC, subtract8With, execAdd8, execAdd16, execSubtract16,
    execInc8, execDec8, execInc16, execDec16, execParity8, execAndN, execOrN, execXorN, State.answerLogic,
    execRotateLeftCarry, execRotateLeft, execRotateRightCarry, execRotateRight, execShiftLeft, execShiftLeftLogical,
    execShiftRight, execShiftRightLogical, State.answerRotate, execOffsetPC, execSetF5F3, execSetF5F3FromAccumulator]
  | get | fget => exact errsOrChanges_requireName fun _ _ => errsOrChanges_answer fun _ => .kept
  | set => exact errsOrChanges_requireName fun _ hn => errsOrChanges_answer fun _ => cellChange_write hn _ _
  | fset => exact errsOrChanges_requireName fun _ hk => errsOrChanges_answer fun _ => cellChange_writeFlag hk _ _
  | gset => exact errsOrChanges_requireName fun _ hg => errsOrChanges_answer fun _ => cellChange_writeGroup hg _ _
  | reset => exact errsOrChanges_answer fun _ => .reset _ _
  | toUnsigned8 | toUnsigned16 => exact errsOrChanges_require (errsOrChanges_answer fun _ => .kept)
  | toSigned8 | inc8 | dec8 | parity8 => exact errsOrChanges_require8 fun _ => errsOrChanges_answer fun _ => .kept
  | toSigned16 | inc16 | dec16 => exact errsOrChanges_require16 fun _ => errsOrChanges_answer fun _ => .kept
  | subtract8 | subtract8VC | add8 =>
    exact errsOrChanges_require8 fun _ => errsOrChanges_require8 fun _ =>
      errsOrChanges_answer fun _ => cellChange_mergeFlags rfl _ _
  | add16 | subtract16 =>
    exact errsOrChanges_require16 fun _ => errsOrChanges_require16 fun _ =>
      errsOrChanges_answer fun _ => .flags (by simp [mayWriteFlags]) _
  | and_n | or_n | xor_n | rotateLeftCarry | rotateLeft | rotateRightCarry | rotateRight | shiftLeft | shiftLeftLogical
  | shiftRight | shiftRightLogical | setF5F3 =>
    exact errsOrChanges_require8 fun _ => errsOrChanges_answer fun _ => .flags (by simp [mayWriteFlags]) _
  | offsetPC => exact errsOrChanges_require8 fun _ => errsOrChanges_answer fun _ => .jump _ _
  | setF5F3FromAccumulator => exact errsOrChanges_answer fun _ => .flags (by simp [mayWriteFlags]) _

/-- The cells after a command differ from those before by a change that is the command's to make. -/
theorem exec_cellChange {i : Instr} {s t : State} (h : exec i s = .next t) : CellChange s.rf i t.rf := by
  rcases exec_errsOrChanges i with ⟨e, hraise⟩ | hanswer
  · obtain rfl : s.raised e = t := Host.Outcome.next.inj ((hraise s).symm.trans h)
    exact .kept
  · obtain ⟨rf, v, hdone, hchange⟩ := hanswer s
    obtain rfl : s.answered rf v = t := Host.Outcome.next.inj (hdone.symm.trans h)
    exact hchange

/-- Settles O13: an erring command errs alike from every state, and a second raise of its error adds nothing. -/
theorem errorLeavesStateUnchanged : Obligations.ErrorLeavesStateUnchanged := by
  intro i s t r hexec hresponse hstatus
  rcases exec_errsOrChanges i with ⟨e, hraise⟩ | hanswer
  · obtain rfl : s.raised e = t := Host.Outcome.next.inj ((hraise s).symm.trans hexec)
    obtain rfl : Response.ofError e = r := Option.some.inj hresponse
    exact ⟨rfl, hraise _⟩
  · obtain ⟨rf, v, hdone, -⟩ := hanswer s
    obtain rfl : s.answered rf v = t := Host.Outcome.next.inj (hdone.symm.trans hexec)
    obtain rfl : Response.ofResult v = r := Option.some.inj hresponse
    exact absurd rfl hstatus

/-! ### Which command changed a cell -/

section changed

variable {rf rf' : RegFile} {i : Instr}

theorem cellChange_af (hc : CellChange rf i rf') (hr : ∀ e, i ≠ .reset e) (h : rf'.af ≠ rf.af) :
    mayWriteFlags i ≠ 0 ∨ ∃ x, i = .set 0x00 x := by
  cases hc with
  | kept | jump => exact absurd rfl h
  | reset opt ext => exact absurd rfl (hr opt)
  | flags hi => exact .inl hi
  | set n x =>
    rcases write_readPair_changes (p := .af) h with rfl | rfl | rfl
    · exact .inr ⟨x, rfl⟩
    · exact .inl (by simp [mayWriteFlags, tagOfReg])
    · exact .inl (by simp [mayWriteFlags, tagOfReg])

theorem cellChange_pc (hc : CellChange rf i rf') (hr : ∀ e, i ≠ .reset e) (h : rf'.pc ≠ rf.pc) :
    ∃ x, i = .set 0x17 x ∨ i = .offsetPC x := by
  cases hc with
  | kept | flags => exact absurd rfl h
  | reset opt ext => exact absurd rfl (hr opt)
  | jump x pc => exact ⟨x, .inr rfl⟩
  | set n x =>
    obtain rfl := write_pc_changes h
    exact ⟨x, .inl rfl⟩

/-- A cell beside `AF` and `PC` changes only by `set`, and through a name that writes it. -/
theorem cellChange_set {α : Type} {cell : RegFile → α} (haf : ∀ rf af, cell { rf with af := af } = cell rf)
    (hpc : ∀ rf pc, cell { rf with pc := pc } = cell rf) (hc : CellChange rf i rf') (hr : ∀ e, i ≠ .reset e)
    (h : cell rf' ≠ cell rf) : ∃ n x, i = .set (tagOfReg n) x ∧ cell (rf.write n x) ≠ cell rf := by
  cases hc with
  | kept => exact absurd rfl h
  | reset opt ext => exact absurd rfl (hr opt)
  | set n x => exact ⟨n, x, rfl, h⟩
  | jump x pc => exact absurd (hpc rf pc) h
  | flags _ af => exact absurd (haf rf af) h

/-- A cell beside `AF` and `PC` that one register name alone writes. -/
theorem cellChange_set_single {α : Type} {cell : RegFile → α} {n : RegName}
    (haf : ∀ rf af, cell { rf with af := af } = cell rf) (hpc : ∀ rf pc, cell { rf with pc := pc } = cell rf)
    (hn : ∀ {rf : RegFile} {m : RegName} {v : Int}, cell (rf.write m v) ≠ cell rf → m = n) (hc : CellChange rf i rf')
    (hr : ∀ e, i ≠ .reset e) (h : cell rf' ≠ cell rf) : ∃ x, i = .set (tagOfReg n) x := by
  obtain ⟨m, x, rfl, hm⟩ := cellChange_set haf hpc hc hr h
  exact ⟨x, by rw [hn hm]⟩

/-- A pair beside `AF` changes only by a `set` of one of its halves or of itself. -/
theorem cellChange_set_pair {p : Pair} (hp : p ≠ .af) (hc : CellChange rf i rf') (hr : ∀ e, i ≠ .reset e)
    (h : rf'.readPair p ≠ rf.readPair p) :
    ∃ x, i = .set (tagOfReg (.high p)) x ∨ i = .set (tagOfReg (.low p)) x ∨ i = .set (tagOfReg (.pair p)) x := by
  have haf : ∀ (rf : RegFile) (af : Word), RegFile.readPair { rf with af := af } p = rf.readPair p :=
    fun rf af => readPair_writePair_other rf af hp.symm
  have hpc : ∀ (rf : RegFile) (pc : Word), RegFile.readPair { rf with pc := pc } p = rf.readPair p := by
    cases p <;> exact fun _ _ => rfl
  obtain ⟨n, x, rfl, hn⟩ := cellChange_set (cell := (·.readPair p)) haf hpc hc hr h
  exact ⟨x, (write_readPair_changes hn).imp (by rintro rfl; rfl) (Or.imp (by rintro rfl; rfl) (by rintro rfl; rfl))⟩

theorem cellChange_set_shadow {q : Shadow} (hc : CellChange rf i rf') (hr : ∀ e, i ≠ .reset e)
    (h : rf'.readShadow q ≠ rf.readShadow q) : ∃ x, i = .set (tagOfReg (.shadow q)) x :=
  cellChange_set_single (cell := (·.readShadow q)) (by cases q <;> exact fun _ _ => rfl) (by cases q <;> exact fun _ _ => rfl)
    write_readShadow_changes hc hr h

theorem cellChange_power (hc : CellChange rf i rf') (hr : ∀ e, i ≠ .reset e) : rf'.power = rf.power := by
  cases hc with
  | kept | jump | flags => rfl
  | reset opt ext => exact absurd rfl (hr opt)
  | set => exact write_power

end changed

/-- Settles O16, cell by cell from the five changes a command can make. -/
theorem cellsChangeOnlyByTheirWriters : Obligations.CellsChangeOnlyByTheirWriters := by
  intro i s t hexec hr
  have hc : CellChange s.rf i t.rf := exec_cellChange hexec
  exact ⟨cellChange_af hc hr,
    cellChange_set_pair (p := .bc) nofun hc hr,
    cellChange_set_pair (p := .de) nofun hc hr,
    cellChange_set_pair (p := .hl) nofun hc hr,
    cellChange_set_pair (p := .ix) nofun hc hr,
    cellChange_set_pair (p := .iy) nofun hc hr,
    cellChange_set_single (fun _ _ => rfl) (fun _ _ => rfl) write_sp_changes hc hr,
    cellChange_pc hc hr,
    cellChange_set_shadow (q := .af) hc hr,
    cellChange_set_shadow (q := .bc) hc hr,
    cellChange_set_shadow (q := .de) hc hr,
    cellChange_set_shadow (q := .hl) hc hr,
    cellChange_set_single (fun _ _ => rfl) (fun _ _ => rfl) write_i_changes hc hr,
    cellChange_set_single (fun _ _ => rfl) (fun _ _ => rfl) write_r_changes hc hr,
    cellChange_set_single (fun _ _ => rfl) (fun _ _ => rfl) write_halt_changes hc hr,
    cellChange_set_single (fun _ _ => rfl) (fun _ _ => rfl) write_iff_changes hc hr,
    cellChange_set_single (fun _ _ => rfl) (fun _ _ => rfl) write_iff2_changes hc hr,
    cellChange_set_single (fun _ _ => rfl) (fun _ _ => rfl) write_im_changes hc hr,
    cellChange_power hc hr⟩

end Sys2Proof.Machine

/-! PROOFS. The state (10_state.md): the registers behind the tags of `get` and `set`, the flags, the effect of each command on
the cells, and construction. -/

namespace Sys2Proof.Machine

open Sys2Proof Sys2Proof.Claims

/-! ### The registers behind the tags -/

theorem badTag_get_iff {t : Byte} :
    BadTag (.get t) ↔ 0x0E ≤ t.toNat ∧ t.toNat ≤ 0x0F ∨ 0x1C ≤ t.toNat ∧ t.toNat ≤ 0x1F ∨ 0x24 ≤ t.toNat := Iff.rfl

/-- The tags R161 lists as unknown are those `regOfTag` gives no register. -/
theorem regOfTag_eq_none_iff {t : Byte} : regOfTag t = none ↔ BadTag (.get t) := by
  rw [badTag_get_iff]
  revert t
  decide

theorem joinBytes_eq_ofInt (h l : Byte) : joinBytes h l = BitVec.ofInt 16 (h.toNat * 256 + l.toNat) := by
  apply BitVec.eq_of_toNat_eq
  have hh := h.isLt
  have hl := l.isLt
  rw [toNat_joinBytes, BitVec.toNat_ofInt]
  omega

theorem toNat_byteOf (x : Int) : ((byteOf x).toNat : Int) = x % 256 := by
  simp only [byteOf, BitVec.toNat_ofInt]
  omega

theorem toNat_wordOf (x : Int) : ((wordOf x).toNat : Int) = x % 65536 := by
  simp only [wordOf, BitVec.toNat_ofInt]
  omega

@[simp] theorem ofInt_emod_256 (x : Int) : BitVec.ofInt 8 (x % 256) = byteOf x := by
  apply BitVec.eq_of_toNat_eq
  simp only [byteOf, BitVec.toNat_ofInt]
  omega

@[simp] theorem ofInt_emod_65536 (x : Int) : BitVec.ofInt 16 (x % 65536) = wordOf x := by
  apply BitVec.eq_of_toNat_eq
  simp only [wordOf, BitVec.toNat_ofInt]
  omega

@[simp] theorem ofInt_emod_4 (x : Int) : BitVec.ofInt 2 (x % 4) = BitVec.ofInt 2 x := by
  apply BitVec.eq_of_toNat_eq
  simp only [BitVec.toNat_ofInt]
  omega

theorem cell16_eq_none (rf : RegFile) {tag : Nat} (h : tag < 0x10 ∨ 0x1B < tag) : cell16 rf tag = none := by
  unfold cell16
  split <;> first | omega | rfl

theorem toNat_eq_zeroOne (b : Bool) : (b.toNat : Int) = zeroOne b := by cases b <;> rfl

/-- `rd(T)` is what the statements give for the tag of `T` (R20). -/
theorem registerValue_tagOfReg (rf : RegFile) (n : RegName) : registerValue rf (tagOfReg n).toNat = some (rf.read n : Int) := by
  cases n with
  | high p => cases p <;> exact congrArg (fun v : Nat => some (v : Int)) (toNat_hiByte _).symm
  | low p => cases p <;> exact congrArg (fun v : Nat => some (v : Int)) (toNat_loByte _).symm
  | pair p => cases p <;> rfl
  | shadow q => cases q <;> rfl
  | halt | iff | iff2 => exact congrArg some (toNat_eq_zeroOne _).symm
  | sp | pc | i | r | im => rfl

theorem registerWritten_tagOfReg (rf : RegFile) (n : RegName) (x : Int) :
    registerWritten rf (tagOfReg n).toNat x = some (rf.write n x) := by
  have hhigh (w : Word) : joinBytes (byteOf x) (loByte w) = BitVec.ofInt 16 (x % 256 * 256 + w.toNat % 256) := by
    rw [joinBytes_eq_ofInt, toNat_byteOf, toNat_loByte, Int.natCast_emod]
    rfl
  have hlow (w : Word) : joinBytes (hiByte w) (byteOf x) = BitVec.ofInt 16 (w.toNat / 256 * 256 + x % 256) := by
    rw [joinBytes_eq_ofInt, toNat_byteOf, toNat_hiByte, Int.natCast_ediv]
    rfl
  cases n with
  | high p => rw [RegFile.write, hhigh]; cases p <;> rfl
  | low p => rw [RegFile.write, hlow]; cases p <;> rfl
  | pair p => rw [RegFile.write, ← ofInt_emod_65536]; cases p <;> rfl
  | shadow q => rw [RegFile.write, ← ofInt_emod_65536]; cases q <;> rfl
  | sp | pc => rw [RegFile.write, ← ofInt_emod_65536]; rfl
  | i | r => rw [RegFile.write, ← ofInt_emod_256]; rfl
  | im => rw [RegFile.write, ← ofInt_emod_4]; rfl
  | halt | iff | iff2 => rfl

theorem registerValue_of_badTag (rf : RegFile) {t : Byte} (h : BadTag (.get t)) : registerValue rf t.toNat = none := by
  rw [badTag_get_iff] at h
  unfold registerValue
  repeat rw [if_neg (by omega)]
  rw [cell16_eq_none rf (by omega), Option.map_none]

theorem registerWritten_of_badTag (rf : RegFile) (x : Int) {t : Byte} (h : BadTag (.get t)) :
    registerWritten rf t.toNat x = none := by
  rw [badTag_get_iff] at h
  unfold registerWritten
  repeat rw [if_neg (by omega)]
  rw [cell16_eq_none rf (by omega), Option.map_none]

/-- What the statements say `get` reads is `rd` of the register the tag names, if it names one. -/
theorem registerValue_eq (rf : RegFile) (t : Byte) :
    registerValue rf t.toNat = (regOfTag t).map fun n => (rf.read n : Int) := by
  cases hn : regOfTag t with
  | some n => rw [regOfTag_eq_some_iff.1 hn, registerValue_tagOfReg, Option.map_some]
  | none => rw [registerValue_of_badTag rf (regOfTag_eq_none_iff.1 hn), Option.map_none]

/-- What the statements say `set` leaves is `wr` to the register the tag names, if it names one. -/
theorem registerWritten_eq (rf : RegFile) (t : Byte) (x : Int) :
    registerWritten rf t.toNat x = (regOfTag t).map fun n => rf.write n x := by
  cases hn : regOfTag t with
  | some n => rw [regOfTag_eq_some_iff.1 hn, registerWritten_tagOfReg, Option.map_some]
  | none => rw [registerWritten_of_badTag rf x (regOfTag_eq_none_iff.1 hn), Option.map_none]

/-! ### `get` and `set` -/

section access

variable {α : Type} {o : Option α} {a : α} {f : α → Host.Outcome State Fault Refusal}

theorem requireName_of_some (h : o = some a) (s : State) : s.requireName o f = f a := by rw [h, requireName_some]

theorem requireName_of_none (h : o = none) (s : State) : s.requireName o f = .next (s.raised .unknownRegister) := by
  rw [h, requireName_none]

variable {t : Byte} {n : RegName}

theorem answers_get (h : regOfTag t = some n) (s : State) : Answers (.get t) s s.rf (s.rf.read n) := requireName_of_some h s

theorem answers_set (h : regOfTag t = some n) (x : Int) (s : State) : Answers (.set t x) s (s.rf.write n x) 0 :=
  requireName_of_some h s

theorem errs_get (h : regOfTag t = none) (s : State) : Errs (.get t) s .unknownRegister := requireName_of_none h s

theorem errs_set (h : regOfTag t = none) (x : Int) (s : State) : Errs (.set t x) s .unknownRegister := requireName_of_none h s

end access

/-- Settles O8: `RegFile.powerOn` is the table of R31, and `reset` puts it in place of the cells whatever they were. -/
theorem resetStateIsZero : Obligations.ResetStateIsZero :=
  ⟨powerOn_eq_zeroCells none, fun _ => rfl, fun _ => rfl⟩

/-- Settles O20: the tag names a register, or it names none. -/
theorem getReadsItsRegister : Obligations.GetReadsItsRegister := by
  intro t s
  rw [registerValue_eq]
  cases hn : regOfTag t with
  | some n => exact answers_get hn s
  | none => exact errs_get hn s

/-- Settles O21: the tag names a register, or it names none. -/
theorem setWritesItsRegister : Obligations.SetWritesItsRegister := by
  intro t x s
  rw [registerWritten_eq]
  cases hn : regOfTag t with
  | some n => exact answers_set hn x s
  | none => exact errs_set hn x s

/-! ### Reading back, and reading elsewhere -/

/-- A register reads back what was written to it, cut to its width (R21). -/
theorem read_write_same (rf : RegFile) (n : RegName) (x : Int) :
    ((rf.write n x).read n : Int) = cutToWidth (tagOfReg n).toNat x := by
  cases n with
  | high p =>
    rw [RegFile.read, RegFile.write, readPair_writePair_same, hiByte_joinBytes, toNat_byteOf]
    cases p <;> rfl
  | low p =>
    rw [RegFile.read, RegFile.write, readPair_writePair_same, loByte_joinBytes, toNat_byteOf]
    cases p <;> rfl
  | pair p =>
    rw [RegFile.read, RegFile.write, readPair_writePair_same, toNat_wordOf]
    cases p <;> rfl
  | shadow q =>
    rw [RegFile.read, RegFile.write, readShadow_writeShadow_same, toNat_wordOf]
    cases q <;> rfl
  | sp | pc => exact toNat_wordOf x
  | i | r => exact toNat_byteOf x
  | halt | iff | iff2 => exact toNat_eq_zeroOne _
  | im =>
    change ((BitVec.ofInt 2 x).toNat : Int) = x % 4
    simp only [BitVec.toNat_ofInt]
    omega

/-- Settles O22: `get` reads the register that `set` wrote. -/
theorem getAfterSet : Obligations.GetAfterSet := by
  intro t x s ht
  obtain ⟨n, hn⟩ := Option.ne_none_iff_exists'.1 (mt regOfTag_eq_none_iff.1 ht)
  refine ⟨s.answered (s.rf.write n x) 0, answers_set hn x s, ?_⟩
  rw [regOfTag_eq_some_iff.1 hn, ← read_write_same s.rf, ← regOfTag_eq_some_iff.1 hn]
  exact answers_get hn _

theorem shareBits_self (t : Nat) : shareBits t t = true := by simp [shareBits]

/-- Where a write changes what is read, the two registers share bits (R22): they are one, or a pair and one of its halves. -/
theorem shareBits_of_read_changes {rf : RegFile} {n m : RegName} {x : Int} (h : (rf.write n x).read m ≠ rf.read m) :
    shareBits (tagOfReg n).toNat (tagOfReg m).toNat = true := by
  have hsame (hnm : n = m) : shareBits (tagOfReg n).toNat (tagOfReg m).toNat = true := hnm ▸ shareBits_self _
  cases m with
  | high p =>
    rcases write_readPair_changes (p := p) (fun he => h (congrArg (fun w => (hiByte w).toNat) he)) with rfl | rfl | rfl
    · exact hsame rfl
    · exact absurd (by simp [RegFile.read, RegFile.write]) h
    · cases p <;> rfl
  | low p =>
    rcases write_readPair_changes (p := p) (fun he => h (congrArg (fun w => (loByte w).toNat) he)) with rfl | rfl | rfl
    · exact absurd (by simp [RegFile.read, RegFile.write]) h
    · exact hsame rfl
    · cases p <;> rfl
  | pair p =>
    rcases write_readPair_changes (p := p) (fun he => h (congrArg BitVec.toNat he)) with rfl | rfl | rfl
    · cases p <;> rfl
    · cases p <;> rfl
    · exact hsame rfl
  | shadow q => exact hsame (write_readShadow_changes fun he => h (congrArg BitVec.toNat he))
  | sp => exact hsame (write_sp_changes fun he => h (congrArg BitVec.toNat he))
  | pc => exact hsame (write_pc_changes fun he => h (congrArg BitVec.toNat he))
  | i => exact hsame (write_i_changes fun he => h (congrArg BitVec.toNat he))
  | r => exact hsame (write_r_changes fun he => h (congrArg BitVec.toNat he))
  | halt => exact hsame (write_halt_changes fun he => h (congrArg Bool.toNat he))
  | iff => exact hsame (write_iff_changes fun he => h (congrArg Bool.toNat he))
  | iff2 => exact hsame (write_iff2_changes fun he => h (congrArg Bool.toNat he))
  | im => exact hsame (write_im_changes fun he => h (congrArg BitVec.toNat he))

/-! ### The flags as bits of `AF` -/

section bits

variable (rf : RegFile)

theorem flag_eq_flags_bit {k : Nat} (hk : k < 8) : flag rf k = rf.flags.getLsbD k := by
  simp [flag, RegFile.flags, loByte, hk]

theorem accu_eq_toNat_accu : accu rf = rf.accu.toNat := (toNat_hiByte rf.af).symm

theorem withF_eq_writeFlags (f : Byte) : withF rf f = rf.writeFlags f := by
  rw [withF, withAF, accu_eq_toNat_accu, ← joinBytes_eq_ofInt]
  rfl

@[simp] theorem writeFlags_writeFlags (f f' : Byte) : (rf.writeFlags f).writeFlags f' = rf.writeFlags f' := by
  rw [RegFile.writeFlags, accu_writeFlags]
  rfl

/-- A bit of `AF` after a flag write under a mask: bits of `A` are outside every mask. -/
theorem mergeFlags_af_bit (m nf : Byte) {j : Nat} (hj : j < 16) :
    (rf.mergeFlags m nf).af.getLsbD j = if m.getLsbD j then nf.getLsbD j else rf.af.getLsbD j := by
  by_cases hlow : j < 8
  · have h := mergeFlags_bit rf m nf j hlow
    rwa [← flag_eq_flags_bit _ hlow, ← flag_eq_flags_bit _ hlow] at h
  · have hhigh (w : Word) : w.getLsbD j = (hiByte w).getLsbD (j - 8) := by
      have hj8 : j - 8 < 8 := by omega
      have hadd : 8 + (j - 8) = j := by omega
      simp [hiByte, hj8, hadd]
    rw [BitVec.getLsbD_of_ge m j (by omega), hhigh, hhigh rf.af]
    exact congrArg (·.getLsbD (j - 8)) (accu_mergeFlags rf m nf)

theorem eq_mergeFlags {rf : RegFile} {af : Word} {m nf : Byte}
    (h : ∀ j < 16, af.getLsbD j = if m.getLsbD j then nf.getLsbD j else rf.af.getLsbD j) :
    { rf with af := af } = rf.mergeFlags m nf := by
  have haf : af = (rf.mergeFlags m nf).af := by
    refine BitVec.eq_of_getLsbD_eq fun j hj => ?_
    rw [h j hj, mergeFlags_af_bit rf m nf hj]
  rw [haf]
  rfl

/-- A whole write of `F` is a write under every mask outside which the new byte has the old flags. -/
theorem writeFlags_eq_mergeFlags {rf : RegFile} {m f : Byte}
    (h : ∀ k < 8, m.getLsbD k = false → f.getLsbD k = rf.flags.getLsbD k) : rf.writeFlags f = rf.mergeFlags m f := by
  refine congrArg rf.writeFlags (BitVec.eq_of_getLsbD_eq fun k hk => ?_)
  rw [← flags_writeFlags rf (_ ||| _)]
  refine Eq.trans ?_ (mergeFlags_bit rf m f k hk).symm
  cases hm : m.getLsbD k with
  | true => rw [if_pos rfl]
  | false => rw [h k hk hm]; rfl

end bits

/-! ### `fget`, `fset`, `gset` -/

theorem flagTagBit_eq (t : Byte) : flagTagBit t.toNat = (flagOfTag t).map flagNameBit := by
  revert t
  decide

theorem toNat_eq_eight_iff {t : Byte} {k : FlagName} (h : flagOfTag t = some k) : t.toNat = 8 ↔ k = .notZ := by
  unfold flagOfTag at h
  split at h <;> cases h <;> decide

/-- A flag read by name is its bit, complemented for `notZ` (R26). -/
theorem readFlag_eq (rf : RegFile) (k : FlagName) : rf.readFlag k = (flag rf (flagNameBit k) != decide (k = .notZ)) := by
  cases k with
  | bit j => exact (Bool.xor_false _).symm
  | notZ => exact (Bool.xor_true _).symm
  | p | v => exact (Bool.xor_false _).symm

/-- A bit of `AF` after a flag is written by name (R25 to R27). -/
theorem writeFlag_bit (rf : RegFile) (k : FlagName) (b : Bool) (j : Nat) (hj : j < 16) :
    (rf.writeFlag k b).af.getLsbD j = if j = flagNameBit k then b != decide (k = .notZ) else rf.af.getLsbD j := by
  cases k with
  | bit i => exact (writeBit_bit rf i b j hj).trans (by simp [flagNameBit])
  | notZ => exact (writeBit_bit rf .z (!b) j hj).trans (by simp [flagNameBit])
  | p | v => exact (writeBit_bit rf .pv b j hj).trans (by simp [flagNameBit])

/-- A tag names a group exactly where the statements list its members, and those are the bits of the group's mask (R28). -/
theorem groupBits_of_some {t : Byte} {g : GroupName} (h : groupOfTag t = some g) :
    ∃ ks, groupBits t.toNat = some ks ∧ ∀ j < 16, (groupMask g).getLsbD j = decide (j ∈ ks) := by
  unfold groupOfTag at h
  split at h <;> cases h <;> exact ⟨_, rfl, by decide⟩

theorem groupBits_of_none {t : Byte} (h : groupOfTag t = none) : groupBits t.toNat = none := by
  revert t
  decide

/-- Settles O26: the tag names a flag, or it names none. -/
theorem fgetReadsItsFlag : Obligations.FgetReadsItsFlag := by
  intro t s
  rw [flagTagBit_eq]
  cases hk : flagOfTag t with
  | some k =>
    simp only [Option.map_some, toNat_eq_eight_iff hk, ← readFlag_eq, ← toNat_eq_zeroOne]
    exact requireName_of_some hk s
  | none => exact requireName_of_none hk s

/-- Settles O27: the write of the one bit, at every bit of `AF`. -/
theorem fsetWritesOneFlag : Obligations.FsetWritesOneFlag := by
  intro t x s
  rw [flagTagBit_eq]
  cases hk : flagOfTag t with
  | some k =>
    simp only [Option.map_some, toNat_eq_eight_iff hk]
    refine ⟨(s.rf.writeFlag k (decide (x ≠ 0))).af, ?_, writeFlag_bit s.rf k _⟩
    rw [← writeFlag_frame]
    exact requireName_of_some hk s
  | none => exact requireName_of_none hk s

/-- Settles O28: the masked write, at every bit of `AF`. -/
theorem gsetWritesItsMembers : Obligations.GsetWritesItsMembers := by
  intro t x s
  cases hg : groupOfTag t with
  | some g =>
    obtain ⟨ks, hks, hmask⟩ := groupBits_of_some hg
    rw [hks]
    refine ⟨(s.rf.writeGroup g (decide (x ≠ 0))).af, requireName_of_some hg s, fun j hj => ?_⟩
    simp only [writeGroup_bit s.rf g _ j hj, hmask j hj, decide_eq_true_eq]
  | none =>
    rw [groupBits_of_none hg]
    exact requireName_of_none hg s

/-! ### What a command does, as a function of the state before -/

/-- The cells and the result of a command that does not err, as functions of the state it is performed in. A command that
writes flags alone writes a byte `nf`, made of the old `A` and `F`, under the mask of R30's table, and leaves the constants of
that table; what it answers depends on `F` at most. -/
inductive Effect : Instr → (State → RegFile) → (State → Int) → Prop
  | get {sel : Byte} {n : RegName} (hn : regOfTag sel = some n) : Effect (.get sel) State.rf fun s => s.rf.read n
  | set {sel : Byte} {n : RegName} (hn : regOfTag sel = some n) (x : Int) :
    Effect (.set sel x) (fun s => s.rf.write n x) fun _ => 0
  | reset (opt : Bool) : Effect (.reset opt) (fun s => s.resetCells opt) fun _ => 0
  | fget {sel : Byte} {k : FlagName} (hk : flagOfTag sel = some k) : Effect (.fget sel) State.rf fun s => (s.rf.readFlag k).toNat
  | compute {i : Instr} (hconst : constantFlags i = []) (v : Int) : Effect i State.rf fun _ => v
  | flags {i : Instr} {m : Byte} {nf : Params → Byte → Byte → Byte} {v : Byte → Int} (hmask : mayWriteFlags i = m)
    (hconst : ∀ ps a f, ∀ p ∈ constantFlags i, p.1 < 8 ∧ m.getLsbD p.1 = true ∧ (nf ps a f).getLsbD p.1 = p.2)
    (hread : readsFlags i = false → ∀ f f', v f = v f') :
    Effect i (fun s => s.rf.mergeFlags m (nf s.params s.rf.accu s.rf.flags)) fun s => v s.rf.flags
  | logic {i : Instr} {x : Int} {h : Bool}
    (hi : i = .and_n x ∧ h = true ∨ i = .or_n x ∧ h = false ∨ i = .xor_n x ∧ h = false) (op : Byte → Byte) :
    Effect i (fun s => { s.rf with af := joinBytes (op s.rf.accu) (logicFlags h (op s.rf.accu)).toByte })
      fun s => (op s.rf.accu).toNat
  | jump (x : Int) (d : Byte) :
    Effect (.offsetPC x) (fun s => { s.rf with pc := jumpTarget s.rf.pc d }) fun s => (jumpTarget s.rf.pc d).toNat

/-- `f` ends in one and the same error from every state, or it is answered from every state with one effect of `i`. -/
def ErrsOrEffect (i : Instr) (f : State → Host.Outcome State Fault Refusal) : Prop :=
  (∃ e, ∀ s, f s = .next (s.raised e)) ∨ ∃ rf v, Effect i rf v ∧ ∀ s, f s = .next (s.answered (rf s) (v s))

section errsOrEffect

variable {i : Instr} {lo hi x : Int}

theorem errsOrEffect_answer {rf : State → RegFile} {v : State → Int} (h : Effect i rf v) :
    ErrsOrEffect i fun s => s.answer (rf s) (v s) := .inr ⟨rf, v, h, fun _ => rfl⟩

theorem errsOrEffect_require {f : State → Host.Outcome State Fault Refusal} (h : ErrsOrEffect i f) :
    ErrsOrEffect i fun s => s.require lo hi x (f s) := by
  by_cases hx : lo ≤ x ∧ x ≤ hi
  · simpa only [require_inside hx] using h
  · exact .inl ⟨_, fun _ => require_outside hx⟩

theorem errsOrEffect_require8 {f : State → Byte → Host.Outcome State Fault Refusal}
    (h : ∀ v, ErrsOrEffect i fun s => f s v) : ErrsOrEffect i fun s => s.require8 x (f s) := errsOrEffect_require (h _)

theorem errsOrEffect_require16 {f : State → Word → Host.Outcome State Fault Refusal}
    (h : ∀ v, ErrsOrEffect i fun s => f s v) : ErrsOrEffect i fun s => s.require16 x (f s) := errsOrEffect_require (h _)

theorem errsOrEffect_requireName {α : Type} {n : Option α} {f : State → α → Host.Outcome State Fault Refusal}
    (h : ∀ a, n = some a → ErrsOrEffect i fun s => f s a) : ErrsOrEffect i fun s => s.requireName n (f s) := by
  cases n with
  | some a => exact h a rfl
  | none => exact .inl ⟨_, fun _ => requireName_none⟩

end errsOrEffect

/-! ### The flag writes as writes under the mask of R30's table -/

/-- A byte with every bit `b`. -/
def bitsAll (b : Bool) : Byte := if b then 0xFF else 0

theorem getLsbD_bitsAll (b : Bool) {k : Nat} (hk : k < 8) : (bitsAll b).getLsbD k = b := by
  cases b with
  | true => exact (BitVec.getLsbD_allOnes (v := 8)).trans (decide_eq_true hk)
  | false => exact BitVec.getLsbD_zero

theorem flagNameBit_lt (k : FlagName) : flagNameBit k < 8 := by
  cases k with
  | bit i => cases i <;> decide
  | notZ | p | v => decide

theorem getLsbD_one_shiftLeft_flagNameBit (k : FlagName) {j : Nat} (hj : j < 16) :
    (1#8 <<< flagNameBit k).getLsbD j = decide (j = flagNameBit k) := by
  have hall : ∀ j < 16, (1#8 <<< flagNameBit k).getLsbD j = decide (j = flagNameBit k) := by
    cases k with
    | bit i => cases i <;> decide
    | notZ | p | v => decide
  exact hall j hj

theorem writeFlag_eq_mergeFlags (rf : RegFile) (k : FlagName) (b : Bool) :
    rf.writeFlag k b = rf.mergeFlags (1#8 <<< flagNameBit k) (bitsAll (b != decide (k = .notZ))) := by
  rw [writeFlag_frame]
  refine eq_mergeFlags fun j hj => ?_
  rw [writeFlag_bit rf k b j hj, getLsbD_one_shiftLeft_flagNameBit k hj]
  by_cases hjk : j = flagNameBit k
  · rw [getLsbD_bitsAll _ (hjk ▸ flagNameBit_lt k)]
    simp [hjk]
  · simp [hjk]

theorem writeGroup_eq_mergeFlags (rf : RegFile) (g : GroupName) (b : Bool) :
    rf.writeGroup g b = rf.mergeFlags (groupMask g) (bitsAll b) := by
  refine eq_mergeFlags fun j hj => (writeGroup_bit rf g b j hj).trans ?_
  by_cases hlow : j < 8
  · rw [getLsbD_bitsAll b hlow]
  · rw [BitVec.getLsbD_of_ge (groupMask g) j (by omega)]
    rfl

theorem writeFlags_eq_mergeFlags_all (rf : RegFile) (f : Byte) : rf.writeFlags f = rf.mergeFlags 0xFF f := by
  refine writeFlags_eq_mergeFlags fun k hk hm => ?_
  rw [show (0xFF : Byte) = bitsAll true from rfl, getLsbD_bitsAll true hk] at hm
  exact nomatch hm

theorem rotateFlags_eq_mergeFlags (rf : RegFile) (res : Byte) (cout : Bool) :
    rf.writeFlags (rotateFlags rf.flags res cout).toByte = rf.mergeFlags 0xD7 (rotateFlags rf.flags res cout).toByte := by
  refine writeFlags_eq_mergeFlags fun k hk hm => ?_
  have hkept : ∀ k < 8, (0xD7 : Byte).getLsbD k = false → k = 5 ∨ k = 3 := by decide
  rcases hkept k hk hm with rfl | rfl
  · exact getLsbD_toByte_f5 ..
  · exact getLsbD_toByte_f3 ..

theorem copyF5F3_eq_mergeFlags (rf : RegFile) (v : Byte) : rf.copyF5F3 v = rf.mergeFlags 0x28 v := rfl

/-- A rotate or shift (R130): `res` gives the result from the operand and the old carry, `cout` the exit bit. -/
theorem errsOrEffect_rotate {i : Instr} {x : Int} (res : Byte → Bool → Byte) (cout : Byte → Bool)
    (hmask : mayWriteFlags i = 0xD7) (hconst : constantFlags i = [(4, false), (1, false)])
    (hread : readsFlags i = false → ∀ v b b', res v b = res v b') :
    ErrsOrEffect i fun s => s.require8 x fun v => s.answerRotate (res v s.rf.carry) (cout v) := by
  refine errsOrEffect_require8 fun v => ?_
  simp only [State.answerRotate, rotateFlags_eq_mergeFlags]
  refine errsOrEffect_answer (.flags
    (nf := fun _ _ f => (rotateFlags f (res v (f.getLsbD 0)) (cout v)).toByte) (v := fun f => (res v (f.getLsbD 0)).toNat)
    hmask (fun _ _ f p hp => ?_) fun hr f f' => by rw [hread hr v])
  rw [hconst] at hp
  rcases List.mem_pair.1 hp with rfl | rfl
  · exact ⟨by decide, by decide, getLsbD_toByte_h _⟩
  · exact ⟨by decide, by decide, getLsbD_toByte_n _⟩

theorem errsOrEffect_logic {i : Instr} {x : Int} {h : Bool}
    (hi : i = .and_n x ∧ h = true ∨ i = .or_n x ∧ h = false ∨ i = .xor_n x ∧ h = false) (op : Byte → Byte → Byte) :
    ErrsOrEffect i fun s => s.require8 x fun n => s.answerLogic h (op s.rf.accu n) :=
  errsOrEffect_require8 fun n => errsOrEffect_answer (.logic hi (op · n))

/-- An operation that writes the flags `fv` under the mask `m` and answers `v`; of the eight, `N` alone is constant. -/
theorem errsOrEffect_arith {i : Instr} {m : Byte} {n : Bool} (fv : Params → FlagVals) (v : Int) (hmask : mayWriteFlags i = m)
    (hconst : constantFlags i = if m.getLsbD 1 then [(1, n)] else []) (hn : ∀ ps, (fv ps).n = n) :
    ErrsOrEffect i fun s => s.answer (s.rf.mergeFlags m (fv s.params).toByte) v := by
  refine errsOrEffect_answer (.flags (nf := fun ps _ _ => (fv ps).toByte) (v := fun _ => v) hmask (fun ps _ _ p hp => ?_)
    fun _ _ _ => rfl)
  rw [hconst] at hp
  split at hp
  next henabled =>
    obtain rfl := List.mem_singleton.1 hp
    exact ⟨by norm_num, henabled, (getLsbD_toByte_n _).trans (hn ps)⟩
  next => exact nomatch hp

/-- A write under the mask `m`, of a byte made of `A` at most, that leaves no flag constant and answers 0. -/
theorem errsOrEffect_setFlags {i : Instr} {m : Byte} (nf : Byte → Byte) (hmask : mayWriteFlags i = m)
    (hconst : constantFlags i = []) : ErrsOrEffect i fun s => s.answer (s.rf.mergeFlags m (nf s.rf.accu)) 0 :=
  errsOrEffect_answer (.flags (nf := fun _ a _ => nf a) (v := fun _ => 0) hmask
    (fun _ _ _ p hp => nomatch (hconst ▸ hp : p ∈ [])) fun _ _ _ => rfl)

/-- Every command errs from every state, or has one effect, the same function of the state from every state. -/
theorem exec_errsOrEffect (i : Instr) : ErrsOrEffect i fun s => exec i s := by
  cases i with dsimp only [exec]
  | get => exact errsOrEffect_requireName fun _ hn => errsOrEffect_answer (.get hn)
  | set => exact errsOrEffect_requireName fun _ hn => errsOrEffect_answer (.set hn _)
  | reset => exact errsOrEffect_answer (.reset _)
  | fget => exact errsOrEffect_requireName fun _ hk => errsOrEffect_answer (.fget hk)
  | fset sel x =>
    refine errsOrEffect_requireName fun k hk => ?_
    simp only [writeFlag_eq_mergeFlags]
    exact errsOrEffect_setFlags (fun _ => _) (mayWriteFlags_fset hk) rfl
  | gset sel x =>
    refine errsOrEffect_requireName fun g hg => ?_
    simp only [writeGroup_eq_mergeFlags]
    exact errsOrEffect_setFlags (fun _ => _) (mayWriteFlags_gset hg) rfl
  | toUnsigned8 | toUnsigned16 => exact errsOrEffect_require (errsOrEffect_answer (.compute rfl _))
  | toSigned8 | inc8 | dec8 | parity8 => exact errsOrEffect_require8 fun _ => errsOrEffect_answer (.compute rfl _)
  | toSigned16 | inc16 | dec16 => exact errsOrEffect_require16 fun _ => errsOrEffect_answer (.compute rfl _)
  | subtract8 =>
    exact errsOrEffect_require8 fun a => errsOrEffect_require8 fun b =>
      errsOrEffect_arith (fun _ => sub8Flags a b) _ rfl rfl fun _ => rfl
  | subtract8VC =>
    exact errsOrEffect_require8 fun a => errsOrEffect_require8 fun b =>
      errsOrEffect_arith (m := 0xFF) (fun _ => sub8Flags a b) _ rfl rfl fun _ => rfl
  | add8 =>
    exact errsOrEffect_require8 fun a => errsOrEffect_require8 fun b =>
      errsOrEffect_arith (fun _ => add8Flags a b) _ rfl rfl fun _ => rfl
  | add16 =>
    refine errsOrEffect_require16 fun a => errsOrEffect_require16 fun b => ?_
    simp only [writeFlags_eq_mergeFlags_all]
    exact errsOrEffect_arith (fun ps => add16Flags ps.f35_16 a b) _ rfl rfl fun _ => rfl
  | subtract16 =>
    refine errsOrEffect_require16 fun a => errsOrEffect_require16 fun b => ?_
    simp only [writeFlags_eq_mergeFlags_all]
    exact errsOrEffect_arith (fun ps => sub16Flags ps.f35_16 a b) _ rfl rfl fun _ => rfl
  | and_n => exact errsOrEffect_logic (.inl ⟨rfl, rfl⟩) (· &&& ·)
  | or_n => exact errsOrEffect_logic (.inr (.inl ⟨rfl, rfl⟩)) (· ||| ·)
  | xor_n => exact errsOrEffect_logic (.inr (.inr ⟨rfl, rfl⟩)) (· ^^^ ·)
  | rotateLeftCarry => exact errsOrEffect_rotate (fun v _ => shiftLeftIn v (v.getLsbD 7)) _ rfl rfl fun _ _ _ _ => rfl
  | rotateLeft => exact errsOrEffect_rotate shiftLeftIn _ rfl rfl nofun
  | rotateRightCarry => exact errsOrEffect_rotate (fun v _ => shiftRightIn v (v.getLsbD 0)) _ rfl rfl fun _ _ _ _ => rfl
  | rotateRight => exact errsOrEffect_rotate shiftRightIn _ rfl rfl nofun
  | shiftLeft => exact errsOrEffect_rotate (fun v _ => shiftLeftIn v false) _ rfl rfl fun _ _ _ _ => rfl
  | shiftLeftLogical => exact errsOrEffect_rotate (fun v _ => shiftLeftIn v true) _ rfl rfl fun _ _ _ _ => rfl
  | shiftRight => exact errsOrEffect_rotate (fun v _ => shiftRightIn v (v.getLsbD 7)) _ rfl rfl fun _ _ _ _ => rfl
  | shiftRightLogical => exact errsOrEffect_rotate (fun v _ => shiftRightIn v false) _ rfl rfl fun _ _ _ _ => rfl
  | offsetPC => exact errsOrEffect_require8 fun _ => errsOrEffect_answer (.jump _ _)
  | setF5F3 =>
    refine errsOrEffect_require8 fun v => ?_
    simp only [copyF5F3_eq_mergeFlags]
    exact errsOrEffect_setFlags (fun _ => v) rfl rfl
  | setF5F3FromAccumulator =>
    simp only [execSetF5F3FromAccumulator, copyF5F3_eq_mergeFlags]
    exact errsOrEffect_setFlags (fun a => a) rfl rfl

/-! ### The flag table (R30) -/

theorem getLsbD_mask_all {k : Nat} (hk : k < 8) : (0xFF : Byte).getLsbD k = true := getLsbD_bitsAll true hk

section write

variable {rf : RegFile} {n : RegName} {x : Int}

theorem write_flags_changes (h : (rf.write n x).flags ≠ rf.flags) : n = .low .af ∨ n = .pair .af := by
  rcases write_readPair_changes (p := .af) (fun he => h (congrArg loByte he)) with rfl | rfl | rfl
  · exact absurd (loByte_joinBytes ..) h
  · exact .inl rfl
  · exact .inr rfl

theorem write_accu_changes (h : (rf.write n x).accu ≠ rf.accu) : n = .high .af ∨ n = .pair .af := by
  rcases write_readPair_changes (p := .af) (fun he => h (congrArg hiByte he)) with rfl | rfl | rfl
  · exact .inl rfl
  · exact absurd (hiByte_joinBytes ..) h
  · exact .inr rfl

end write

section table

variable {i : Instr} {rf : State → RegFile} {v : State → Int}

theorem effect_keeps_flag (h : Effect i rf v) (s : State) {k : Nat} (hk : k < 8) (hm : (mayWriteFlags i).getLsbD k = false) :
    flag (rf s) k = flag s.rf k := by
  have hall (hff : mayWriteFlags i = 0xFF) : False := by
    rw [hff, getLsbD_mask_all hk] at hm
    exact nomatch hm
  rw [flag_eq_flags_bit _ hk, flag_eq_flags_bit _ hk]
  cases h with
  | get | fget | compute | jump => rfl
  | reset => exact (hall rfl).elim
  | logic hi => rcases hi with ⟨rfl, -⟩ | ⟨rfl, -⟩ | ⟨rfl, -⟩ <;> exact (hall rfl).elim
  | flags hmask => rw [mergeFlags_bit _ _ _ k hk, ← hmask, hm]; rfl
  | @set sel n hn x =>
    refine congrArg (fun f : Byte => f.getLsbD k) (by_contra fun hne => ?_)
    rw [regOfTag_eq_some_iff.1 hn] at hall
    rcases write_flags_changes hne with rfl | rfl <;> exact hall rfl

theorem effect_accu_changes (h : Effect i rf v) {s : State} (hne : (rf s).accu ≠ s.rf.accu) :
    (∃ e, i = .reset e) ∨ ∃ x, i = .set 0x00 x ∨ i = .set 0x10 x ∨ i = .and_n x ∨ i = .or_n x ∨ i = .xor_n x := by
  cases h with
  | get | fget | compute | jump => exact absurd rfl hne
  | flags => exact absurd (accu_mergeFlags ..) hne
  | reset opt => exact .inl ⟨opt, rfl⟩
  | @logic _ x _ hi =>
    rcases hi with ⟨rfl, -⟩ | ⟨rfl, -⟩ | ⟨rfl, -⟩
    · exact .inr ⟨x, .inr (.inr (.inl rfl))⟩
    · exact .inr ⟨x, .inr (.inr (.inr (.inl rfl)))⟩
    · exact .inr ⟨x, .inr (.inr (.inr (.inr rfl)))⟩
  | set hn x =>
    rw [regOfTag_eq_some_iff.1 hn]
    rcases write_accu_changes hne with rfl | rfl
    · exact .inr ⟨x, .inl rfl⟩
    · exact .inr ⟨x, .inr (.inl rfl)⟩

theorem effect_constantFlags (h : Effect i rf v) (s : State) {p : Nat × Bool} (hp : p ∈ constantFlags i) :
    flag (rf s) p.1 = p.2 := by
  cases h with
  | get | fget | set | jump => exact nomatch hp
  | compute hconst => rw [hconst] at hp; exact nomatch hp
  | reset =>
    have hfalse : ∀ q ∈ constantFlags (.reset false), q.2 = false := by decide
    exact BitVec.getLsbD_zero.trans (hfalse p hp).symm
  | flags hmask hconst =>
    obtain ⟨hk, hm, hbit⟩ := hconst s.params s.rf.accu s.rf.flags p hp
    rw [flag_eq_flags_bit _ hk, mergeFlags_bit _ _ _ _ hk, if_pos hm, hbit]
  | @logic _ _ c hi op =>
    have hc : p = (4, c) ∨ p = (1, false) ∨ p = (0, false) := by
      rcases hi with ⟨rfl, rfl⟩ | ⟨rfl, rfl⟩ | ⟨rfl, rfl⟩ <;> simpa [constantFlags] using hp
    rcases hc with rfl | rfl | rfl <;>
      rw [flag_eq_flags_bit _ (by norm_num), RegFile.flags, loByte_joinBytes]
    · exact getLsbD_toByte_h _
    · exact getLsbD_toByte_n _
    · exact getLsbD_toByte_c _

end table

/-- Settles O17: an error keeps every cell, and each effect keeps to its row of the table. -/
theorem flagsChangeOnlyAsTabled : Obligations.FlagsChangeOnlyAsTabled := by
  intro i s t hexec
  rcases exec_errsOrEffect i with ⟨e, hraise⟩ | ⟨rf, v, heffect, hanswer⟩
  · obtain rfl : s.raised e = t := Host.Outcome.next.inj ((hraise s).symm.trans hexec)
    refine ⟨fun _ _ _ => rfl, fun hne => absurd rfl hne, fun r hr hdone => ?_⟩
    obtain rfl : Response.ofError e = r := Option.some.inj hr
    exact nomatch hdone
  · obtain rfl : s.answered (rf s) (v s) = t := Host.Outcome.next.inj ((hanswer s).symm.trans hexec)
    refine ⟨fun k hk => effect_keeps_flag heffect s hk, fun hne => effect_accu_changes heffect (s := s) fun he => hne ?_,
      fun _ _ _ p => effect_constantFlags heffect s⟩
    rw [accu_eq_toNat_accu, accu_eq_toNat_accu, answered_rf, he]

/-- Settles O24: reads change only through shared bits, and by R30's table `set` writes flags only through `F` and `AF`. -/
theorem setLeavesUnrelatedRegisters : Obligations.SetLeavesUnrelatedRegisters := by
  intro t u x s s' hexec
  refine ⟨fun hshare => ?_, fun hF hAF k hk => ?_⟩
  · rw [registerValue_eq, registerValue_eq]
    cases hn : regOfTag t with
    | none =>
      obtain rfl : s.raised .unknownRegister = s' := Host.Outcome.next.inj ((errs_set hn x s).symm.trans hexec)
      rfl
    | some n =>
      obtain rfl : s.answered (s.rf.write n x) 0 = s' := Host.Outcome.next.inj ((answers_set hn x s).symm.trans hexec)
      cases hm : regOfTag u with
      | none => rfl
      | some m =>
        rw [regOfTag_eq_some_iff.1 hn, regOfTag_eq_some_iff.1 hm] at hshare
        refine congrArg (fun v : Nat => some (v : Int)) (by_contra fun hne => ?_)
        exact absurd (shareBits_of_read_changes hne) (by simp [hshare])
  · refine (flagsChangeOnlyAsTabled _ s s' hexec).1 k hk ?_
    rw [mayWriteFlags, if_neg (not_or.2 ⟨hF, hAF⟩)]
    exact BitVec.getLsbD_zero

/-! ### Commands that do not read the flags -/

/-- The two register files differ in `F` at most. -/
def SameButF (rf rf' : RegFile) : Prop := ∃ f, rf' = rf.writeFlags f

theorem sameButF_of_eq {rf rf' : RegFile} (h : rf' = rf) : SameButF rf rf' :=
  ⟨rf.flags, h.trans (writeFlags_flags rf).symm⟩

theorem sameButF_writeFlags (rf : RegFile) (f g g' : Byte) : SameButF (rf.writeFlags g) ((rf.writeFlags f).writeFlags g') :=
  ⟨g', by simp⟩

/-- A register whose tag is not `F`'s or `AF`'s reads no flag. -/
theorem read_writeFlags {n : RegName} (hlow : n ≠ .low .af) (hpair : n ≠ .pair .af) (rf : RegFile) (f : Byte) :
    (rf.writeFlags f).read n = rf.read n := by
  cases n with
  | high p =>
    cases p with
    | af => exact congrArg BitVec.toNat (accu_writeFlags rf f)
    | bc | de | hl | ix | iy => rfl
  | low p =>
    cases p with
    | af => exact absurd rfl hlow
    | bc | de | hl | ix | iy => rfl
  | pair p =>
    cases p with
    | af => exact absurd rfl hpair
    | bc | de | hl | ix | iy => rfl
  | shadow q => cases q <;> rfl
  | sp | pc | i | r | halt | iff | iff2 | im => rfl

/-- A write takes register files that differ in `F` to such register files. -/
theorem sameButF_write (rf : RegFile) (f : Byte) (n : RegName) (x : Int) :
    SameButF (rf.write n x) ((rf.writeFlags f).write n x) := by
  cases n with
  | high p =>
    cases p with
    | af => exact ⟨f, by simp [RegFile.write, RegFile.writePair, RegFile.readPair, RegFile.writeFlags, RegFile.accu]⟩
    | bc | de | hl | ix | iy => exact ⟨f, rfl⟩
  | low p =>
    cases p with
    | af => exact sameButF_of_eq (by simp [RegFile.write, RegFile.writePair, RegFile.readPair, RegFile.writeFlags, RegFile.accu])
    | bc | de | hl | ix | iy => exact ⟨f, rfl⟩
  | pair p =>
    cases p with
    | af => exact sameButF_of_eq rfl
    | bc | de | hl | ix | iy => exact ⟨f, rfl⟩
  | shadow q => cases q <;> exact ⟨f, rfl⟩
  | sp | pc | i | r | halt | iff | iff2 | im => exact ⟨f, rfl⟩

section flagsUnread

variable {i : Instr} {rf : State → RegFile} {v : State → Int}

theorem effect_result_ignores_flags (h : Effect i rf v) (hread : readsFlags i = false) (s : State) (f : Byte) :
    v { s with rf := s.rf.writeFlags f } = v s := by
  cases h with
  | set | reset | compute | jump => rfl
  | fget => exact nomatch hread
  | flags _ _ hv => exact hv hread _ _
  | logic _ op => exact congrArg (fun a => ((op a).toNat : Int)) (accu_writeFlags s.rf f)
  | @get sel n hn =>
    rw [regOfTag_eq_some_iff.1 hn] at hread
    refine congrArg Nat.cast (read_writeFlags ?_ ?_ s.rf f) <;> rintro rfl <;> exact nomatch hread

theorem effect_sameButF (h : Effect i rf v) (s : State) (f : Byte) :
    SameButF (rf s) (rf { s with rf := s.rf.writeFlags f }) := by
  cases h with
  | get | fget | compute | jump => exact ⟨f, rfl⟩
  | reset => exact sameButF_of_eq rfl
  | set _ x => exact sameButF_write s.rf f _ x
  | flags => exact sameButF_writeFlags ..
  | @logic _ _ c _ op =>
    exact sameButF_of_eq (congrArg (fun a => { s.rf with af := joinBytes (op a) (logicFlags c (op a)).toByte })
      (accu_writeFlags s.rf f))

end flagsUnread

/-- Settles O18: the same effect from the two states, and no effect carries the flags anywhere but to `F`. -/
theorem otherAnswersIgnoreFlags : Obligations.OtherAnswersIgnoreFlags := by
  intro i s t t' f hread hexec hexec'
  rw [withF_eq_writeFlags] at hexec'
  simp only [withF_eq_writeFlags]
  rcases exec_errsOrEffect i with ⟨e, hraise⟩ | ⟨rf, v, heffect, hanswer⟩
  · obtain rfl := Host.Outcome.next.inj ((hraise _).symm.trans hexec)
    obtain rfl := Host.Outcome.next.inj ((hraise _).symm.trans hexec')
    exact ⟨rfl, f, rfl⟩
  · obtain rfl := Host.Outcome.next.inj ((hanswer _).symm.trans hexec)
    obtain rfl := Host.Outcome.next.inj ((hanswer _).symm.trans hexec')
    exact ⟨congrArg (fun v => some (Response.ofResult v)) (effect_result_ignores_flags heffect hread s f),
      effect_sameButF heffect s f⟩

/-! ### `power` -/

theorem read_withPower (s : State) (p : Option Ext) (n : RegName) : (withPower s p).rf.read n = s.rf.read n := by
  cases n with
  | high q | low q | pair q => cases q <;> rfl
  | shadow q => cases q <;> rfl
  | sp | pc | i | r | halt | iff | iff2 | im => rfl

theorem write_withPower (s : State) (p : Option Ext) (n : RegName) (x : Int) :
    (withPower s p).rf.write n x = { s.rf.write n x with power := p } := by
  cases n with
  | high q | low q | pair q => cases q <;> rfl
  | shadow q => cases q <;> rfl
  | sp | pc | i | r | halt | iff | iff2 | im => rfl

section power

variable {i : Instr} {rf : State → RegFile} {v : State → Int}

theorem effect_result_ignores_power (h : Effect i rf v) (s : State) (p : Option Ext) : v (withPower s p) = v s := by
  cases h with
  | get => exact congrArg Nat.cast (read_withPower s p _)
  | @fget _ k => cases k <;> rfl
  | set | reset | compute | flags | logic | jump => rfl

theorem effect_carries_power (h : Effect i rf v) (hi : ∀ e, i ≠ .reset e) (s : State) (p : Option Ext) :
    rf (withPower s p) = { rf s with power := p } := by
  cases h with
  | set _ x => exact write_withPower s p _ x
  | reset opt => exact absurd rfl (hi opt)
  | get | fget | compute | flags | logic | jump => rfl

end power

/-- Settles O19: the same effect from the two states, which carries `power` along and reads it nowhere. -/
theorem powerIsNeverRead : Obligations.PowerIsNeverRead := by
  intro i s t p hexec
  refine ⟨?_, fun hi => ⟨cellChange_power (exec_cellChange hexec) hi, ?_⟩⟩
  · rintro ⟨opt, rfl⟩
    exact hexec
  · rcases exec_errsOrEffect i with ⟨e, hraise⟩ | ⟨rf, v, heffect, hanswer⟩
    · obtain rfl := Host.Outcome.next.inj ((hraise _).symm.trans hexec)
      exact hraise _
    · obtain rfl := Host.Outcome.next.inj ((hanswer _).symm.trans hexec)
      refine (hanswer _).trans ?_
      rw [effect_result_ignores_power heffect, effect_carries_power heffect hi]
      rfl

/-! ### Construction (R63, R73) -/

theorem run_succ {M : Host.Core} {s t : M.State} (h : M.step s = .next t) (k : Nat) : M.run (k + 1) s = M.run k t := by
  simp only [Host.Core.run, h]

theorem decode_encode_reset (opt : Bool) : decode (encode (.reset opt)) = .instr (.reset opt) := by
  cases opt <;> decide

theorem decode_encode_set (t : Byte) {x : Int} (h : fits24 x) : decode (encode (.set t x)) = .instr (.set t x) := by
  simp [decode, encode, operandOf_fieldOf h]

/-- The cells after the entry `e` of a construction: an entry that names no register leaves them (D26). -/
def entrySet (rf : RegFile) (e : Byte × Int) : RegFile := (registerWritten rf e.1.toNat e.2).getD rf

theorem exec_set_entry (e : Byte × Int) (s : State) :
    ∃ t, exec (.set e.1 e.2) s = .next t ∧ t.rf = entrySet s.rf e ∧ t.pending = s.pending := by
  rw [entrySet, registerWritten_eq]
  cases hn : regOfTag e.1 with
  | some n => exact ⟨_, answers_set hn e.2 s, rfl, rfl⟩
  | none => exact ⟨_, errs_set hn e.2 s, rfl, rfl⟩

/-- The `set` commands of a construction, taken in order, set its entries in order. -/
theorem run_set_entries (ext : Ext) (entries : List (Byte × Int)) (hfits : ∀ e ∈ entries, fits24 e.2) (s : State)
    (hpending : s.pending = entries.map fun e => .command (encode (.set e.1 e.2)) ext) :
    ∃ t : State, Host.Core.run Sys2Proof.core entries.length s = .next t ∧ t.pending = [] ∧
      t.rf = entries.foldl entrySet s.rf := by
  induction entries generalizing s with
  | nil => exact ⟨s, rfl, hpending, rfl⟩
  | cons e es ih =>
    have hstep := step_command hpending (decode_encode_set e.1 (hfits e List.mem_cons_self))
    obtain ⟨u, hu, hrf, hrest⟩ := exec_set_entry e (s.takeCommand (es.map _) ext)
    obtain ⟨t, hrun, hempty, ht⟩ := ih (fun e' he' => hfits e' (List.mem_cons_of_mem e he')) u hrest
    refine ⟨t, (run_succ (M := Sys2Proof.core) (hstep.trans hu) es.length).trans hrun, hempty, ?_⟩
    rw [ht, hrf]
    rfl

/-- Settles O60: the first step performs `reset`, and the others the entries. -/
theorem constructionSetsEntriesInOrder : Obligations.ConstructionSetsEntriesInOrder := by
  intro ext entries s hfits hpending
  rw [construct, List.map_cons, List.map_map] at hpending
  have hreset := step_command hpending (decode_encode_reset ext)
  obtain ⟨t, hrun, hempty, ht⟩ := run_set_entries s.extIn entries hfits
    ((s.takeCommand _ s.extIn).answered ((s.takeCommand _ s.extIn).resetCells ext) 0) rfl
  exact ⟨t, (run_succ (M := Sys2Proof.core) hreset entries.length).trans hrun, hempty, ht⟩

end Sys2Proof.Machine

/-! PROOFS. Memory (20_memory.md): a pair and its halves (R43), repeated commands (R47), and the order in which what is sent is
taken (R48). -/

namespace Sys2Proof.Machine

open Sys2Proof Sys2Proof.Claims

/-! ### A run on meaningful commands (R48, R190) -/

section safeRun

variable {i : Instr} {s t : State}

/-- Every command is answered (R190): none stops the machine. -/
theorem exec_goes_on (i : Instr) (s : State) : ∃ t, exec i s = .next t := by
  rcases exec_ends i s with ⟨rf, v, h⟩ | ⟨e, h⟩
  · exact ⟨_, h⟩
  · exact ⟨_, h⟩

/-- A command touches neither the stream nor the parameters. -/
theorem exec_pending_params (h : exec i s = .next t) : t.pending = s.pending ∧ t.params = s.params := by
  rcases exec_ends i s with ⟨rf, v, hend⟩ | ⟨e, hend⟩ <;> obtain rfl := Host.Outcome.next.inj (hend.symm.trans h)
  · exact ⟨rfl, rfl⟩
  · exact ⟨rfl, rfl⟩

/-- A step that goes on takes the oldest input, if there is one, and leaves the parameters alone. -/
theorem step_pending_params (h : step s = .next t) : t.pending = s.pending.tail ∧ t.params = s.params := by
  rcases step_cases h with ⟨hidle, rfl⟩ | ⟨ext, rest, hpulse, rfl⟩ | ⟨w, e, rest, i, hcommand, -, hexec⟩
  · simp [hidle]
  · simp [hpulse]
  · simpa [hcommand] using exec_pending_params hexec

/-- Only a command word that selects no operation is refused (R60), and a safe stream holds none. -/
theorem step_goes_on_of_safe (h : s.safe = true) : ∃ t, step s = .next t := by
  match hp : s.pending with
  | [] => exact ⟨s, step_idle hp⟩
  | .resetLine ext :: rest => exact ⟨_, step_resetLine hp⟩
  | .command w e :: rest =>
    match hd : decode w with
    | .instr i =>
      rw [step_command hp hd]
      exact exec_goes_on i _
    | .undefinedOp op => simp [State.safe, hp, Input.defined, hd] at h

theorem safe_of_pending_eq_tail (h : s.safe = true) (ht : t.pending = s.pending.tail) : t.safe = true := by
  rw [State.safe, List.all_eq_true] at h ⊢
  exact fun inp hinp => h inp (List.mem_of_mem_tail (ht ▸ hinp))

end safeRun

/-- Settles O11, by induction on the number of steps: each one goes on, takes one input, and leaves a safe stream. -/
theorem safeRunTakesEveryInput : Obligations.SafeRunTakesEveryInput := by
  intro n
  induction n with
  | zero => exact fun s _ => ⟨s, rfl, rfl, rfl⟩
  | succ n ih =>
    intro s hsafe
    obtain ⟨u, hstep⟩ := step_goes_on_of_safe hsafe
    obtain ⟨hpending, hparams⟩ := step_pending_params hstep
    obtain ⟨t, hrun, hrest, hkept⟩ := ih u (safe_of_pending_eq_tail hsafe hpending)
    refine ⟨t, (run_succ (M := Sys2Proof.core) hstep n).trans hrun, ?_, hkept.trans hparams⟩
    rw [hrest, hpending, List.drop_tail]

/-! ### A pair and its halves (R43) -/

/-- The tags of a pair, of its high half and of its low half (R56, D5). -/
theorem regOfTag_pair_and_halves {p : Nat} (hp : p < 6) :
    ∃ q, regOfTag (BitVec.ofNat 8 (0x10 + p)) = some (.pair q) ∧ regOfTag (BitVec.ofNat 8 (2 * p)) = some (.high q) ∧
      regOfTag (BitVec.ofNat 8 (2 * p + 1)) = some (.low q) := by
  match p, hp with
  | 0, _ => exact ⟨.af, rfl, rfl, rfl⟩
  | 1, _ => exact ⟨.bc, rfl, rfl, rfl⟩
  | 2, _ => exact ⟨.de, rfl, rfl, rfl⟩
  | 3, _ => exact ⟨.hl, rfl, rfl, rfl⟩
  | 4, _ => exact ⟨.ix, rfl, rfl, rfl⟩
  | 5, _ => exact ⟨.iy, rfl, rfl, rfl⟩

section halves

variable (rf : RegFile) (p : Pair)

theorem read_high_write_pair (v : Int) : ((rf.write (.pair p) v).read (.high p) : Int) = v % 65536 / 256 := by
  rw [RegFile.read, RegFile.write, readPair_writePair_same, toNat_hiByte, Int.natCast_ediv, toNat_wordOf]
  rfl

theorem read_low_write_pair (v : Int) : ((rf.write (.pair p) v).read (.low p) : Int) = v % 65536 % 256 := by
  rw [RegFile.read, RegFile.write, readPair_writePair_same, toNat_loByte, Int.natCast_emod, toNat_wordOf]
  rfl

/-- The half written first is kept by the write of the other one. -/
theorem read_pair_write_halves (h l : Int) :
    (((rf.write (.high p) h).write (.low p) l).read (.pair p) : Int) = h % 256 * 256 + l % 256 := by
  rw [← toNat_byteOf, ← toNat_byteOf]
  simp [RegFile.read, RegFile.write, toNat_joinBytes]

end halves

/-- Settles O23: the three reads above, at operands that need no cut. -/
theorem pairIsHighHalfThenLowHalf : Obligations.PairIsHighHalfThenLowHalf := by
  intro p s hp
  obtain ⟨q, hpair, hhigh, hlow⟩ := regOfTag_pair_and_halves hp
  refine ⟨fun v hv => ⟨_, answers_set hpair v s, ?_, ?_⟩,
    fun h l hh hl => ⟨_, _, answers_set hhigh h s, answers_set hlow l _, ?_⟩⟩
  · rw [show v / 256 = v % 65536 / 256 by omega, ← read_high_write_pair s.rf q]
    exact answers_get hhigh _
  · rw [show v % 256 = v % 65536 % 256 by omega, ← read_low_write_pair s.rf q]
    exact answers_get hlow _
  · rw [show h * 256 + l = h % 256 * 256 + l % 256 by omega, ← read_pair_write_halves s.rf q]
    exact answers_get hpair _

/-! ### Repeated commands (R47) -/

@[simp] theorem writePair_writePair (rf : RegFile) (p : Pair) (w w' : Word) :
    (rf.writePair p w).writePair p w' = rf.writePair p w' := by cases p <;> rfl

@[simp] theorem writeShadow_writeShadow (rf : RegFile) (q : Shadow) (w w' : Word) :
    (rf.writeShadow q w).writeShadow q w' = rf.writeShadow q w' := by cases q <;> rfl

/-- A second write of the same value to the same register changes nothing. -/
@[simp] theorem write_write_same (rf : RegFile) (n : RegName) (x : Int) : (rf.write n x).write n x = rf.write n x := by
  cases n with
  | high p | low p | pair p => simp [RegFile.write]
  | shadow q => exact writeShadow_writeShadow ..
  | sp | pc | i | r | halt | iff | iff2 | im => rfl

/-- A command that is no writer of R33's table keeps every cell. -/
theorem cellChange_kept {rf rf' : RegFile} {i : Instr} (hc : CellChange rf i rf') (hflags : mayWriteFlags i = 0)
    (hreset : ∀ e, i ≠ .reset e) (hset : ∀ t x, i ≠ .set t x) (hjump : ∀ x, i ≠ .offsetPC x) : rf' = rf := by
  cases hc with
  | kept => rfl
  | reset opt ext => exact absurd rfl (hreset opt)
  | set n x => exact absurd rfl (hset _ x)
  | jump x pc => exact absurd rfl (hjump x)
  | flags hi => exact absurd hflags hi

/-- Settles O25: the second write and the second answer are the first again, and the frame of R33 leaves the reads no cell to
change. -/
theorem setIsIdempotentAndReadsAreSilent : Obligations.SetIsIdempotentAndReadsAreSilent := by
  refine ⟨fun t x s s' hset => ?_, ?_⟩
  · cases hn : regOfTag t with
    | some n =>
      obtain rfl : s.answered (s.rf.write n x) 0 = s' := Host.Outcome.next.inj ((answers_set hn x s).symm.trans hset)
      refine (answers_set hn x _).trans ?_
      rw [answered_rf, write_write_same]
      rfl
    | none =>
      obtain rfl : s.raised .unknownRegister = s' := Host.Outcome.next.inj ((errs_set hn x s).symm.trans hset)
      exact errs_set hn x _
  · rintro t s s' (hget | hfget)
    · exact cellChange_kept (exec_cellChange hget) rfl nofun nofun nofun
    · exact cellChange_kept (exec_cellChange hfget) rfl nofun nofun nofun

end Sys2Proof.Machine

/-! PROOFS. The encoding (30_encoding.md): the fields of a command word and the two directions of the decoder (R50 to R55), the
words that are refused (R60), and the response to a command (R52). -/

namespace Sys2Proof.Machine

open Sys2Proof Sys2Proof.Claims

/-! ### The fields of a command word (R50) -/

section fields

variable (w w' : CommandWord)

theorem toNat_opField : (opField w).toNat = w.toNat / 2 ^ 56 := by
  rw [opField, BitVec.extractLsb'_toNat, Nat.shiftRight_eq_div_pow]
  omega

theorem toNat_selField : (selField w).toNat = w.toNat / 2 ^ 48 % 2 ^ 8 := by
  rw [selField, BitVec.extractLsb'_toNat, Nat.shiftRight_eq_div_pow]

theorem toNat_xField : (xField w).toNat = w.toNat / 2 ^ 24 % 2 ^ 24 := by
  rw [xField, BitVec.extractLsb'_toNat, Nat.shiftRight_eq_div_pow]

theorem toNat_yField : (yField w).toNat = w.toNat % 2 ^ 24 := by
  rw [yField, BitVec.extractLsb'_toNat, Nat.shiftRight_zero]

@[simp] theorem opField_and : opField (w &&& w') = opField w &&& opField w' := BitVec.extractLsb'_and
@[simp] theorem selField_and : selField (w &&& w') = selField w &&& selField w' := BitVec.extractLsb'_and
@[simp] theorem xField_and : xField (w &&& w') = xField w &&& xField w' := BitVec.extractLsb'_and
@[simp] theorem yField_and : yField (w &&& w') = yField w &&& yField w' := BitVec.extractLsb'_and

/-- The four fields are the whole word. -/
theorem eq_of_fields {w w' : CommandWord} (hop : opField w = opField w') (hsel : selField w = selField w')
    (hx : xField w = xField w') (hy : yField w = yField w') : w = w' := by
  rw [← BitVec.toNat_inj, toNat_opField, toNat_opField] at hop
  rw [← BitVec.toNat_inj, toNat_selField, toNat_selField] at hsel
  rw [← BitVec.toNat_inj, toNat_xField, toNat_xField] at hx
  rw [← BitVec.toNat_inj, toNat_yField, toNat_yField] at hy
  apply BitVec.eq_of_toNat_eq
  omega

theorem packCommand_inj {op op' sel sel' : Byte} {x x' y y' : Field24} :
    packCommand op sel x y = packCommand op' sel' x' y' ↔ op = op' ∧ sel = sel' ∧ x = x' ∧ y = y' := by
  constructor
  · intro h
    exact ⟨by simpa using congrArg opField h, by simpa using congrArg selField h, by simpa using congrArg xField h,
      by simpa using congrArg yField h⟩
  · rintro ⟨rfl, rfl, rfl, rfl⟩
    rfl

/-- Masking a word masks each field. -/
theorem and_packCommand (op sel : Byte) (x y : Field24) :
    w &&& packCommand op sel x y = packCommand (opField w &&& op) (selField w &&& sel) (xField w &&& x) (yField w &&& y) :=
  eq_of_fields (by simp) (by simp) (by simp) (by simp)

/-! ### The fields each format reads (R53) -/

@[simp] theorem and_ones8 (b : Byte) : b &&& 0xFF#8 = b := BitVec.and_allOnes
@[simp] theorem and_ones24 (f : Field24) : f &&& 0xFFFFFF#24 = f := BitVec.and_allOnes

@[simp] theorem and_mask_N : w &&& Format.N.mask = packCommand (opField w) 0 0 0 :=
  (and_packCommand w 0xFF 0 0 0).trans (by simp)

@[simp] theorem and_mask_R : w &&& Format.R.mask = packCommand (opField w) (selField w &&& 1) 0 0 :=
  (and_packCommand w 0xFF 1 0 0).trans (by simp)

@[simp] theorem and_mask_T : w &&& Format.T.mask = packCommand (opField w) (selField w) 0 0 :=
  (and_packCommand w 0xFF 0xFF 0 0).trans (by simp)

@[simp] theorem and_mask_TV : w &&& Format.TV.mask = packCommand (opField w) (selField w) (xField w) 0 :=
  (and_packCommand w 0xFF 0xFF 0xFFFFFF 0).trans (by simp)

@[simp] theorem and_mask_V : w &&& Format.V.mask = packCommand (opField w) 0 (xField w) 0 :=
  (and_packCommand w 0xFF 0 0xFFFFFF 0).trans (by simp)

@[simp] theorem and_mask_VV : w &&& Format.VV.mask = packCommand (opField w) 0 (xField w) (yField w) :=
  (and_packCommand w 0xFF 0 0xFFFFFF 0xFFFFFF).trans (by simp)

@[simp] theorem and_mask_VVE : w &&& Format.VVE.mask = packCommand (opField w) (selField w) (xField w) (yField w) :=
  (and_packCommand w 0xFF 0xFF 0xFFFFFF 0xFFFFFF).trans (by simp)

/-- Every format reads `OP`. -/
theorem opField_and_mask (f : Format) : opField (w &&& f.mask) = opField w := by
  cases f <;> simp only [and_mask_N, and_mask_R, and_mask_T, and_mask_TV, and_mask_V, and_mask_VV, and_mask_VVE, opField_pack]

end fields

/-! ### The decoder (R53, R55) -/

/-- A field carries `x` exactly when `x` fits it and is written as it (R51). -/
theorem operandOf_eq_iff {f : Field24} {x : Int} : operandOf f = x ↔ fits24 x ∧ f = fieldOf x := by
  constructor
  · rintro rfl
    exact ⟨⟨BitVec.le_toInt f, Int.le_of_lt_add_one BitVec.toInt_lt⟩, (fieldOf_operandOf f).symm⟩
  · rintro ⟨hx, rfl⟩
    exact operandOf_fieldOf hx

/-- The reset option is the one bit of `SEL` its format reads (R59). -/
theorem resetOption_eq_iff {sel : Byte} {b : Bool} : sel.getLsbD 0 = b ↔ sel &&& 1 = (BitVec.ofBool b).setWidth 8 := by
  revert sel b
  decide

theorem opField_encode (i : Instr) : opField (encode i) = i.op := by
  cases i <;> exact opField_pack ..

theorem opField_of_decode {w : CommandWord} {i : Instr} (h : decode w = .instr i) : opField w = i.op := by
  unfold decode at h
  split at h <;> cases h <;> assumption

/-- For a word with the `OP` of `i`, the operands are read as they are written. Where there is more than one operand, the two
sides list the same facts in another order. -/
theorem decode_eq_instr_iff_of_op {w : CommandWord} {i : Instr} (hop : opField w = i.op) :
    decode w = .instr i ↔ i.wf = true ∧ w &&& i.format.mask = encode i := by
  cases i with simp [decode, hop, Instr.op, Instr.format, Instr.wf, encode, packCommand_inj, operandOf_eq_iff]
  | reset => exact resetOption_eq_iff
  | set | fset | gset => exact and_left_comm
  | subtract8VC | add16 | subtract16 => exact and_and_and_comm
  | subtract8 | add8 => exact (and_congr_right' and_and_and_comm).trans and_left_comm

/-- A word decodes to `i` exactly when `i` can be written and is written as the bits its format reads. -/
theorem decode_eq_instr_iff {w : CommandWord} {i : Instr} :
    decode w = .instr i ↔ i.wf = true ∧ w &&& i.format.mask = encode i := by
  constructor
  · intro h
    exact (decode_eq_instr_iff_of_op (opField_of_decode h)).1 h
  · rintro ⟨hwf, henc⟩
    have hop : opField w = i.op := by rw [← opField_and_mask w i.format, henc, opField_encode]
    exact (decode_eq_instr_iff_of_op hop).2 ⟨hwf, henc⟩

/-- A field the format does not read is written as zero; so are the bits of `SEL` above the reset option. -/
theorem encode_and_mask (i : Instr) : encode i &&& i.format.mask = encode i := by
  cases i with simp [encode, Instr.format]
  | reset opt => cases opt <;> rfl

/-- Settles O2: the word of an instruction is all its format reads. -/
theorem decodeOfEncode : Obligations.DecodeOfEncode :=
  fun i hwf => decode_eq_instr_iff.2 ⟨hwf, encode_and_mask i⟩

/-- Settles O3: one direction of `decode_eq_instr_iff`. -/
theorem encodeOfDecode : Obligations.EncodeOfDecode := by
  intro w i h
  obtain ⟨hwf, henc⟩ := decode_eq_instr_iff.1 h
  exact ⟨hwf, henc.symm⟩

/-- Settles O4: what a word decodes to depends on the bits the format reads alone. -/
theorem unreadFieldsAreIgnored : Obligations.UnreadFieldsAreIgnored := by
  intro w w' i h hsame
  obtain ⟨hwf, henc⟩ := decode_eq_instr_iff.1 h
  exact decode_eq_instr_iff.2 ⟨hwf, hsame ▸ henc⟩

/-- Settles O1: the decoder is run on each word. -/
theorem writtenWordsDecode : Obligations.WrittenWordsDecode := by
  unfold Obligations.WrittenWordsDecode
  decide

/-! ### The words that are refused (R60) -/

/-- The `OP` values R60 lists are those the decoder knows no operation for. -/
theorem decode_packCommand_eq_undefinedOp_iff (op : Byte) :
    decode (packCommand op 0 0 0) = .undefinedOp op ↔ UndefinedOp op.toNat := by
  unfold UndefinedOp
  revert op
  decide

/-- The operands have no say in whether a word is refused, and the refusal names its `OP`. -/
theorem decode_eq_undefinedOp_iff {w : CommandWord} {op : Byte} :
    decode w = .undefinedOp op ↔ opField w = op ∧ UndefinedOp (opField w).toNat := by
  rw [← decode_packCommand_eq_undefinedOp_iff]
  unfold decode
  rw [opField_pack]
  split <;> simp

/-- Settles O5: a word the decoder knows is performed, and every command goes on. -/
theorem undefinedOpsAreRefused : Obligations.UndefinedOpsAreRefused := by
  simp only [Obligations.UndefinedOpsAreRefused, ← toNat_opField]
  refine ⟨fun w => ⟨fun h => ⟨_, decode_eq_undefinedOp_iff.2 ⟨rfl, h⟩⟩, ?_⟩,
    fun s w e rest hpending => ⟨fun h => ?_, fun h => ?_⟩⟩
  · rintro ⟨op, hd⟩
    exact (decode_eq_undefinedOp_iff.1 hd).2
  · rw [BitVec.ofNat_toNat, BitVec.setWidth_eq]
    exact step_undefined hpending (decode_eq_undefinedOp_iff.2 ⟨rfl, h⟩)
  · cases hd : decode w with
    | instr i =>
      rw [step_command hpending hd]
      exact exec_goes_on i _
    | undefinedOp op => exact absurd (decode_eq_undefinedOp_iff.1 hd).2 h

/-! ### The results a command can give (R52, R55) -/

/-- The value `v` is one the command `i` can answer with: a signed or an unsigned number of 16 bits, 0 where there is no
result. -/
structure AllowedResult (i : Instr) (v : Int) : Prop where
  lower : (if mayAnswerNegative i then -32768 else 0) ≤ v
  upper : v ≤ 65535
  noResult : hasNoResult i = true → v = 0

/-- The command `i` ends in an error, or in an answer with a result that it can give. -/
def ErrsOrGives (i : Instr) (s : State) (o : Host.Outcome State Fault Refusal) : Prop :=
  (∃ e, o = .next (s.raised e)) ∨ ∃ rf v, o = .next (s.answered rf v) ∧ AllowedResult i v

section allowed

variable {i : Instr}

theorem ge_of_allowedResult {v : Int} (h : AllowedResult i v) : -32768 ≤ v := le_trans (by split <;> decide) h.lower

theorem allowedResult_zero (i : Instr) : AllowedResult i 0 where
  lower := by split <;> decide
  upper := by decide
  noResult _ := rfl

theorem allowedResult_nat (hi : hasNoResult i = false) {n : Nat} (hn : n < 65536) : AllowedResult i n where
  lower := by split <;> omega
  upper := by omega
  noResult h := absurd (hi.symm.trans h) Bool.false_ne_true

theorem allowedResult_byte (hi : hasNoResult i = false) (b : Byte) : AllowedResult i b.toNat :=
  allowedResult_nat hi (b.isLt.trans (by decide))

theorem allowedResult_word (hi : hasNoResult i = false) (w : Word) : AllowedResult i w.toNat := allowedResult_nat hi w.isLt

theorem allowedResult_bool (hi : hasNoResult i = false) (b : Bool) : AllowedResult i b.toNat :=
  allowedResult_nat hi (b.toNat_lt.trans (by decide))

theorem allowedResult_sext8 (x : Int) (b : Byte) : AllowedResult (.toSigned8 x) (sext8 b) where
  lower := le_trans (show (-32768 : Int) ≤ -2 ^ 7 by decide) (BitVec.le_toInt b)
  upper := le_trans (Int.le_of_lt BitVec.toInt_lt) (by decide)
  noResult := nofun

theorem allowedResult_sext16 (x : Int) (w : Word) : AllowedResult (.toSigned16 x) (sext16 w) where
  lower := BitVec.le_toInt w
  upper := le_trans (Int.le_of_lt BitVec.toInt_lt) (by decide)
  noResult := nofun

theorem read_lt (rf : RegFile) (n : RegName) : rf.read n < 65536 := by
  cases n with
  | high p | low p | i | r => exact (BitVec.isLt _).trans (by decide)
  | pair p | shadow q | sp | pc => exact BitVec.isLt _
  | halt | iff | iff2 => exact (Bool.toNat_lt _).trans (by decide)
  | im => exact (BitVec.isLt _).trans (by decide)

variable {s : State} {lo hi x : Int}

theorem errsOrGives_answer {rf : RegFile} {v : Int} (h : AllowedResult i v) : ErrsOrGives i s (s.answer rf v) :=
  .inr ⟨rf, v, rfl, h⟩

theorem errsOrGives_require {k : Host.Outcome State Fault Refusal} (h : ErrsOrGives i s k) :
    ErrsOrGives i s (s.require lo hi x k) := by
  by_cases hx : lo ≤ x ∧ x ≤ hi
  · rwa [require_inside hx]
  · exact .inl ⟨_, require_outside hx⟩

theorem errsOrGives_require8 {k : Byte → Host.Outcome State Fault Refusal} (h : ∀ v, ErrsOrGives i s (k v)) :
    ErrsOrGives i s (s.require8 x k) := errsOrGives_require (h _)

theorem errsOrGives_require16 {k : Word → Host.Outcome State Fault Refusal} (h : ∀ v, ErrsOrGives i s (k v)) :
    ErrsOrGives i s (s.require16 x k) := errsOrGives_require (h _)

theorem errsOrGives_requireName {α : Type} {n : Option α} {k : α → Host.Outcome State Fault Refusal}
    (h : ∀ a, ErrsOrGives i s (k a)) : ErrsOrGives i s (s.requireName n k) := by
  cases n with
  | some a => exact h a
  | none => exact .inl ⟨_, requireName_none⟩

end allowed

/-- Every command errs, or gives a result that it can give. -/
theorem exec_errsOrGives (i : Instr) (s : State) : ErrsOrGives i s (exec i s) := by
  cases i with dsimp only [exec, execSubtract8, execSubtract8VC, subtract8With, execAdd8, execAdd16, execSubtract16, execAndN,
    execOrN, execXorN, State.answerLogic, execRotateLeftCarry, execRotateLeft, execRotateRightCarry, execRotateRight,
    execShiftLeft, execShiftLeftLogical, execShiftRight, execShiftRightLogical, State.answerRotate, execOffsetPC]
  | get => exact errsOrGives_requireName fun _ => errsOrGives_answer (allowedResult_nat rfl (read_lt _ _))
  | fget => exact errsOrGives_requireName fun _ => errsOrGives_answer (allowedResult_bool rfl _)
  | set | fset | gset => exact errsOrGives_requireName fun _ => errsOrGives_answer (allowedResult_zero _)
  | reset | setF5F3FromAccumulator => exact errsOrGives_answer (allowedResult_zero _)
  | setF5F3 => exact errsOrGives_require8 fun _ => errsOrGives_answer (allowedResult_zero _)
  | toSigned8 => exact errsOrGives_require8 fun _ => errsOrGives_answer (allowedResult_sext8 _ _)
  | toSigned16 => exact errsOrGives_require16 fun _ => errsOrGives_answer (allowedResult_sext16 _ _)
  | toUnsigned8 => exact errsOrGives_require (errsOrGives_answer (allowedResult_byte rfl _))
  | toUnsigned16 => exact errsOrGives_require (errsOrGives_answer (allowedResult_word rfl _))
  | parity8 => exact errsOrGives_require8 fun _ => errsOrGives_answer (allowedResult_bool rfl _)
  | subtract8 | subtract8VC | add8 =>
    exact errsOrGives_require8 fun _ => errsOrGives_require8 fun _ => errsOrGives_answer (allowedResult_byte rfl _)
  | add16 | subtract16 =>
    exact errsOrGives_require16 fun _ => errsOrGives_require16 fun _ => errsOrGives_answer (allowedResult_word rfl _)
  | inc16 | dec16 => exact errsOrGives_require16 fun _ => errsOrGives_answer (allowedResult_word rfl _)
  | inc8 | dec8 | and_n | or_n | xor_n | rotateLeftCarry | rotateLeft | rotateRightCarry | rotateRight | shiftLeft
  | shiftLeftLogical | shiftRight | shiftRightLogical =>
    exact errsOrGives_require8 fun _ => errsOrGives_answer (allowedResult_byte rfl _)
  | offsetPC => exact errsOrGives_require8 fun _ => errsOrGives_answer (allowedResult_word rfl _)

/-! ### The response (R52) -/

/-- A result in the range of `AllowedResult` is read back from `RES`. -/
theorem toInt_ofResult {i : Instr} {v : Int} (h : AllowedResult i v) : (Response.ofResult v).res.toInt = v :=
  operandOf_fieldOf ⟨le_trans (by decide) (ge_of_allowedResult h), h.upper.trans (by decide)⟩

theorem responseWf_ofResult {i : Instr} {v : Int} (h : AllowedResult i v) : (Response.ofResult v).wf = true := by
  rw [Response.wf, toInt_ofResult h]
  simp [Response.ofResult, ge_of_allowedResult h, h.upper]

theorem responseWf_ofError (e : ErrorKind) : (Response.ofError e).wf = true := by
  cases e <;> rfl

/-- A command leaves a response the spec allows, whatever the one before it was. -/
theorem exec_responseWf {i : Instr} {s t : State} (h : exec i s = .next t) : t.responseWf = true := by
  rcases exec_errsOrGives i s with ⟨e, hend⟩ | ⟨rf, v, hend, hv⟩ <;> obtain rfl := Host.Outcome.next.inj (hend.symm.trans h)
  · exact responseWf_ofError e
  · exact responseWf_ofResult hv

/-- Settles O10: a step without a command leaves the response, and each step takes from the stream at most. -/
theorem stepKeepsInvariant : Obligations.StepKeepsInvariant := by
  refine fun s t h => ⟨fun hs => ?_, fun hs => safe_of_pending_eq_tail hs (step_pending_params h).1⟩
  rcases step_cases h with ⟨-, rfl⟩ | ⟨ext, rest, -, rfl⟩ | ⟨w, e, rest, i, -, -, hexec⟩
  · exact hs
  · exact hs
  · exact exec_responseWf hexec

/-- The response word is the status code above the 24 bits of `RES`. -/
theorem toNat_word (r : Response) : r.word.toNat = r.status.code.toNat * 2 ^ 24 + r.res.toNat := by
  have hcode := r.status.code.isLt
  have hres := r.res.isLt
  rw [Response.word, BitVec.toNat_or, BitVec.toNat_shiftLeft, BitVec.toNat_setWidth_of_le (by decide),
    BitVec.toNat_setWidth_of_le (by decide), Nat.mod_eq_of_lt (by rw [Nat.shiftLeft_eq]; omega),
    ← Nat.shiftLeft_add_eq_or_of_lt hres, Nat.shiftLeft_eq]

theorem toNat_word_div (r : Response) : r.word.toNat / 2 ^ 24 = r.status.code.toNat := by
  rw [toNat_word]
  omega

theorem toNat_word_mod (r : Response) : r.word.toNat % 2 ^ 24 = r.res.toNat := by
  rw [toNat_word]
  omega

theorem statusCode_le (st : Status) : st.code.toNat ≤ 2 := by
  cases st with
  | done => decide
  | error e => cases e <;> decide

theorem statusCode_eq_zero_iff {st : Status} : st.code.toNat = 0 ↔ st = .done := by
  cases st with
  | done => decide
  | error e => cases e <;> decide

/-- Settles O12: the word is read through its two fields, and a result is one the command can give. -/
theorem everyCommandIsAnsweredOnce : Obligations.EveryCommandIsAnsweredOnce := by
  intro i s
  simp only [toNat_word_div, toNat_word_mod, statusCode_eq_zero_iff]
  rcases exec_errsOrGives i s with ⟨e, hend⟩ | ⟨rf, v, hend, hv⟩
  · exact ⟨s.rf, .ofError e, hend, statusCode_le _, trivial, trivial, fun _ => rfl, fun _ => rfl, nofun⟩
  · refine ⟨rf, .ofResult v, hend, statusCode_le _, trivial, trivial, fun hne => absurd rfl hne, fun hi => ?_, fun hneg => ?_⟩
    · rw [hv.noResult hi]
      rfl
    · rw [toInt_ofResult hv] at hneg
      by_contra hnot
      have hlow := hv.lower
      rw [if_neg hnot] at hlow
      omega

end Sys2Proof.Machine

/-! PROOFS. Conversions (42_conversions.md): the two readings of a pattern, and the round trip (S4). -/

namespace Sys2Proof.Machine

open Sys2Proof Sys2Proof.Claims

/-! ### A chain of commands -/

section chain

variable {op : Int → Instr} {s : State} {rf : RegFile} {v w : Int}

/-- A command answered with status 0 hands its result, read back from `RES`, to the rest of the chain. -/
theorem chain_succ_of_answers (h : Answers (op v) s rf w) (hw : fits24 w) (n : Nat) :
    chain op (n + 1) s v = chain op n (s.answered rf w) w := by
  have hres : (BitVec.ofInt 24 w).toInt = w := operandOf_fieldOf hw
  rw [Answers] at h
  simp only [chain, h, hres]
  rfl

theorem chain_one_of_answers (h : Answers (op v) s rf w) (hw : fits24 w) : chain op 1 s v = some (s.answered rf w, w) :=
  chain_succ_of_answers h hw 0

end chain

/-! ### The four conversions (R90 to R93) -/

theorem sext8_byteOf {x : Int} (h : within 0 255 x) : sext8 (byteOf x) = if x ≥ 128 then x - 256 else x := by
  have hx := toInt_byteOf h
  rw [sext8, BitVec.toInt_eq_toNat_cond]
  split <;> split <;> omega

theorem sext16_wordOf {x : Int} (h : within 0 65535 x) : sext16 (wordOf x) = if x ≥ 32768 then x - 65536 else x := by
  have hx := toInt_wordOf h
  rw [sext16, BitVec.toInt_eq_toNat_cond]
  split <;> split <;> omega

theorem answers_toSigned8 {x : Int} (h : within 0 255 x) (s : State) :
    Answers (.toSigned8 x) s s.rf (sext8 (byteOf x)) := require_inside h

theorem answers_toSigned16 {x : Int} (h : within 0 65535 x) (s : State) :
    Answers (.toSigned16 x) s s.rf (sext16 (wordOf x)) := require_inside h

theorem answers_toUnsigned8 {x : Int} (h : within (-128) 255 x) (s : State) :
    Answers (.toUnsigned8 x) s s.rf (x % 256) := by
  rw [← toNat_byteOf]
  exact require_inside h

theorem answers_toUnsigned16 {x : Int} (h : within (-32768) 65535 x) (s : State) :
    Answers (.toUnsigned16 x) s s.rf (x % 65536) := by
  rw [← toNat_wordOf]
  exact require_inside h

/-- Settles O29: inside the range by `sext8_byteOf` and `sext16_wordOf`, outside it by the operand check. -/
theorem toSignedReadsTwosComplement : Obligations.ToSignedReadsTwosComplement := by
  refine fun x s => ⟨fun h => ?_, fun h => require_outside h, fun h => ?_, fun h => require_outside h⟩
  · rw [← sext8_byteOf h]
    exact answers_toSigned8 h s
  · rw [← sext16_wordOf h]
    exact answers_toSigned16 h s

/-- Settles O30: the pattern of the model is the remainder modulo 256. -/
theorem toUnsigned8GivesPattern : Obligations.ToUnsigned8GivesPattern :=
  fun _ s => ⟨fun h => answers_toUnsigned8 h s, fun h => require_outside h⟩

/-- Settles O31: the pattern of the model is the remainder modulo 65536. -/
theorem toUnsigned16GivesPattern : Obligations.ToUnsigned16GivesPattern :=
  fun _ s => ⟨fun h => answers_toUnsigned16 h s, fun h => require_outside h⟩

/-! ### The round trip -/

theorem sext8_within (b : Byte) : within (-128) 127 (sext8 b) :=
  ⟨BitVec.le_toInt b, Int.le_of_lt_add_one BitVec.toInt_lt⟩

theorem sext16_within (w : Word) : within (-32768) 32767 (sext16 w) :=
  ⟨BitVec.le_toInt w, Int.le_of_lt_add_one BitVec.toInt_lt⟩

@[simp] theorem byteOf_sext8 (b : Byte) : byteOf (sext8 b) = b := BitVec.ofInt_toInt

@[simp] theorem wordOf_sext16 (w : Word) : wordOf (sext16 w) = w := BitVec.ofInt_toInt

/-- Every signed reading of a byte is an operand `toUnsigned8` takes (R92), and the answer is the byte. -/
theorem answers_toUnsigned8_sext8 (b : Byte) (s : State) : Answers (.toUnsigned8 (sext8 b)) s s.rf b.toNat := by
  obtain ⟨hlow, hhigh⟩ := sext8_within b
  have h := answers_toUnsigned8 ⟨hlow, hhigh.trans (by decide)⟩ s
  rwa [← toNat_byteOf, byteOf_sext8] at h

/-- Every signed reading of a word is an operand `toUnsigned16` takes (R93), and the answer is the word. -/
theorem answers_toUnsigned16_sext16 (w : Word) (s : State) : Answers (.toUnsigned16 (sext16 w)) s s.rf w.toNat := by
  obtain ⟨hlow, hhigh⟩ := sext16_within w
  have h := answers_toUnsigned16 ⟨hlow, hhigh.trans (by decide)⟩ s
  rwa [← toNat_wordOf, wordOf_sext16] at h

theorem fits24_sext8 (b : Byte) : fits24 (sext8 b) := by
  obtain ⟨hlow, hhigh⟩ := sext8_within b
  exact ⟨le_trans (by decide) hlow, hhigh.trans (by decide)⟩

theorem fits24_sext16 (w : Word) : fits24 (sext16 w) := by
  obtain ⟨hlow, hhigh⟩ := sext16_within w
  exact ⟨le_trans (by decide) hlow, hhigh.trans (by decide)⟩

/-- Settles O32: `RES` carries the signed reading whole, and `toUnsigned` gives its byte or word back. -/
theorem conversionsRoundTrip : Obligations.ConversionsRoundTrip := by
  refine fun v s => ⟨fun h => ⟨_, _, chain_one_of_answers (answers_toSigned8 h s) (fits24_sext8 _), ?_⟩,
    fun h => ⟨_, _, chain_one_of_answers (answers_toSigned16 h s) (fits24_sext16 _), ?_⟩⟩
  · have hback := answers_toUnsigned8_sext8 (byteOf v) (s.answered s.rf (sext8 (byteOf v)))
    rwa [toInt_byteOf h] at hback
  · have hback := answers_toUnsigned16_sext16 (wordOf v) (s.answered s.rf (sext16 (wordOf v)))
    rwa [toInt_wordOf h] at hback

end Sys2Proof.Machine

/-! PROOFS. Add, subtract, increment, decrement (43_add_subtract.md): the answers and the flags as integers, the two forms of
signed overflow (R106), and addition undoing subtraction. -/

namespace Sys2Proof.Machine

open Sys2Proof Sys2Proof.Claims

/-! ### Operands that are in their range -/

theorem exists_byte_of_within {x : Int} (h : within 0 255 x) : ∃ b : Byte, x = b.toNat := ⟨byteOf x, (toInt_byteOf h).symm⟩

theorem exists_word_of_within {x : Int} (h : within 0 65535 x) : ∃ w : Word, x = w.toNat := ⟨wordOf x, (toInt_wordOf h).symm⟩

theorem byte_within (b : Byte) : within 0 255 b.toNat := by
  have hlt := b.isLt
  constructor <;> omega

theorem word_within (w : Word) : within 0 65535 w.toNat := by
  have hlt := w.isLt
  constructor <;> omega

section operands

variable (s : State)

@[simp] theorem require8_toNat (b : Byte) (k : Byte → Host.Outcome State Fault Refusal) : s.require8 b.toNat k = k b := by
  rw [State.require8, require_inside (byte_within b), byteOf, BitVec.ofInt_natCast, BitVec.ofNat_toNat, BitVec.setWidth_eq]

@[simp] theorem require16_toNat (w : Word) (k : Word → Host.Outcome State Fault Refusal) : s.require16 w.toNat k = k w := by
  rw [State.require16, require_inside (word_within w), wordOf, BitVec.ofInt_natCast, BitVec.ofNat_toNat, BitVec.setWidth_eq]

/-- Two checked operands: one outside its range is enough for the error, whichever it is (R162). -/
theorem require_pair_outside {lo hi x y : Int} {k : Host.Outcome State Fault Refusal}
    (h : ¬(within lo hi x ∧ within lo hi y)) :
    s.require lo hi x (s.require lo hi y k) = .next (s.raised .operandOutOfRange) := by
  by_cases hx : within lo hi x
  · rw [require_inside hx, require_outside fun hy => h ⟨hx, hy⟩]
  · exact require_outside hx

end operands

/-! ### Sums and differences as integers -/

section integers

variable {w : Nat} (a b : BitVec w)

theorem toInt_toNat_add : ((a + b).toNat : Int) = (a.toNat + b.toNat) % 2 ^ w := by
  rw [BitVec.toNat_add]
  push_cast
  rfl

theorem toInt_toNat_sub : ((a - b).toNat : Int) = (a.toNat - b.toNat) % 2 ^ w := by
  have hb := b.isLt
  calc ((a - b).toNat : Int)
      = ((2 ^ w + (a.toNat - b.toNat)) % 2 ^ w : Int) := by
        rw [BitVec.toNat_sub]
        push_cast [Nat.cast_sub hb.le]
        ring_nf
    _ = (a.toNat - b.toNat) % 2 ^ w := Int.add_emod_left ..

theorem setWidth_add_setWidth : (a.setWidth (w + 1) + b.setWidth (w + 1)).setWidth w = a + b := by
  simp [BitVec.setWidth_add]

theorem setWidth_sub_setWidth : (a.setWidth (w + 1) - b.setWidth (w + 1)).setWidth w = a - b := by
  simp [BitVec.sub_eq_add_neg, BitVec.setWidth_add]

/-- The bit above a sum is the carry out of it. -/
theorem getLsbD_setWidth_add : (a.setWidth (w + 1) + b.setWidth (w + 1)).getLsbD w = decide (2 ^ w ≤ a.toNat + b.toNat) :=
  (BitVec.uaddOverflow_eq a b).symm

/-- The bit above a difference is the borrow into it. -/
theorem getLsbD_setWidth_sub : (a.setWidth (w + 1) - b.setWidth (w + 1)).getLsbD w = decide (a.toNat < b.toNat) := by
  have ha := a.isLt
  have hb := b.isLt
  have hpow : 2 ^ (w + 1) = 2 * 2 ^ w := Nat.pow_succ'
  have hval : (a.setWidth (w + 1) - b.setWidth (w + 1)).toNat =
      if a.toNat < b.toNat then 2 * 2 ^ w + a.toNat - b.toNat else a.toNat - b.toNat := by
    rw [BitVec.toNat_sub, BitVec.toNat_setWidth_of_le (by omega), BitVec.toNat_setWidth_of_le (by omega), hpow]
    split
    · rw [Nat.mod_eq_of_lt (by omega)]
      omega
    · rw [show 2 * 2 ^ w - b.toNat + a.toNat = 2 * 2 ^ w + (a.toNat - b.toNat) by omega, Nat.add_mod_left,
        Nat.mod_eq_of_lt (by omega)]
  refine (BitVec.msb_eq_getLsbD_last _).symm.trans ?_
  rw [BitVec.msb_eq_decide, hval, decide_eq_decide, Nat.add_sub_cancel]
  split <;> omega

theorem bitOf_toNat (k : Nat) : bitOf a.toNat k = a.getLsbD k := by
  rw [BitVec.getLsbD, Nat.testBit_eq_decide_div_mod_eq, bitOf]
  norm_cast

theorem decide_toInt_toNat_eq_zero : decide ((a.toNat : Int) = 0) = (a == 0) := by
  rw [beq_eq_decide, decide_eq_decide, ← BitVec.toNat_inj]
  exact Int.natCast_eq_zero

end integers

theorem add8_eq (a b : Byte) : add8 a b = a + b := setWidth_add_setWidth a b

theorem sub8_eq (a b : Byte) : sub8 a b = a - b := setWidth_sub_setWidth a b

theorem add16_eq (a b : Word) : add16 a b = a + b := setWidth_add_setWidth a b

theorem sub16_eq (a b : Word) : sub16 a b = a - b := setWidth_sub_setWidth a b


/-! ### Signed overflow (R106) -/

section overflow

variable {w : Nat} (a b : BitVec w)

theorem toInt_eq_signedOf (hw : 0 < w) : a.toInt = signedOf w a.toNat := by
  have hpow : 2 ^ w = 2 * 2 ^ (w - 1) := (mul_pow_sub_one hw.ne' 2).symm
  have hneg : (2 ^ (w - 1) : Int) ≤ a.toNat ↔ ¬2 * a.toNat < 2 ^ w := by
    rw [hpow]
    norm_cast
    omega
  simp only [BitVec.toInt_eq_toNat_cond, signedOf, hneg, ite_not, Nat.cast_pow, Nat.cast_ofNat]

theorem overflows_toInt_add : overflows w (a.toInt + b.toInt) = a.saddOverflow b := by
  rw [overflows, BitVec.saddOverflow, Bool.decide_or, Bool.or_comm]

theorem overflows_toInt_sub : overflows w (a.toInt - b.toInt) = a.ssubOverflow b := by
  rw [overflows, BitVec.ssubOverflow, Bool.decide_or, Bool.or_comm]

theorem saddOverflow_eq_bits : a.saddOverflow b =
    (a.getLsbD (w - 1) == b.getLsbD (w - 1) && a.getLsbD (w - 1) != (a + b).getLsbD (w - 1)) := by
  simp only [BitVec.saddOverflow_eq, BitVec.msb_eq_getLsbD_last, bne, BEq.comm]

theorem ssubOverflow_eq_bits : a.ssubOverflow b =
    (a.getLsbD (w - 1) != b.getLsbD (w - 1) && a.getLsbD (w - 1) != (a - b).getLsbD (w - 1)) := by
  rw [BitVec.ssubOverflow_eq, BitVec.msb_eq_getLsbD_last, BitVec.msb_eq_getLsbD_last, BitVec.msb_eq_getLsbD_last]
  cases a.getLsbD (w - 1) <;> cases b.getLsbD (w - 1) <;> simp

end overflow

theorem outside8_eq_overflows (v : Int) : outside8 v = overflows 8 v := by
  rw [outside8, overflows, decide_eq_decide]
  omega

theorem outside16_eq_overflows (v : Int) : outside16 v = overflows 16 v := by
  rw [outside16, overflows, decide_eq_decide]
  omega

section bytes

variable (a b : Byte)

theorem overflowAdd8_eq_saddOverflow : overflowAdd8 a b = a.saddOverflow b :=
  (outside8_eq_overflows _).trans (overflows_toInt_add a b)

theorem overflowSub8_eq_ssubOverflow : overflowSub8 a b = a.ssubOverflow b :=
  (outside8_eq_overflows _).trans (overflows_toInt_sub a b)

theorem overflowAdd8_eq_overflows : overflowAdd8 a b = overflows 8 (signedOf 8 a.toNat + signedOf 8 b.toNat) := by
  rw [overflowAdd8, outside8_eq_overflows, sext8, sext8, toInt_eq_signedOf a (by decide), toInt_eq_signedOf b (by decide)]

theorem overflowSub8_eq_overflows : overflowSub8 a b = overflows 8 (signedOf 8 a.toNat - signedOf 8 b.toNat) := by
  rw [overflowSub8, outside8_eq_overflows, sext8, sext8, toInt_eq_signedOf a (by decide), toInt_eq_signedOf b (by decide)]

end bytes

section words

variable (a b : Word)

theorem overflowAdd16_eq_saddOverflow : overflowAdd16 a b = a.saddOverflow b :=
  (outside16_eq_overflows _).trans (overflows_toInt_add a b)

theorem overflowSub16_eq_ssubOverflow : overflowSub16 a b = a.ssubOverflow b :=
  (outside16_eq_overflows _).trans (overflows_toInt_sub a b)

theorem overflowAdd16_eq_overflows : overflowAdd16 a b = overflows 16 (signedOf 16 a.toNat + signedOf 16 b.toNat) := by
  rw [overflowAdd16, outside16_eq_overflows, sext16, sext16, toInt_eq_signedOf a (by decide),
    toInt_eq_signedOf b (by decide)]

theorem overflowSub16_eq_overflows : overflowSub16 a b = overflows 16 (signedOf 16 a.toNat - signedOf 16 b.toNat) := by
  rw [overflowSub16, outside16_eq_overflows, sext16, sext16, toInt_eq_signedOf a (by decide),
    toInt_eq_signedOf b (by decide)]

end words

/-- Settles O38: at each width both forms are the library's signed overflow of the width. -/
theorem overflowFormsAgree : Obligations.OverflowFormsAgree :=
  ⟨fun a b => ⟨(overflowAdd8_eq_saddOverflow a b).trans (saddOverflow_eq_bits a b), overflowAdd8_eq_overflows a b,
      (overflowSub8_eq_ssubOverflow a b).trans (ssubOverflow_eq_bits a b), overflowSub8_eq_overflows a b⟩,
    fun a b => ⟨(overflowAdd16_eq_saddOverflow a b).trans (saddOverflow_eq_bits a b), overflowAdd16_eq_overflows a b,
      (overflowSub16_eq_ssubOverflow a b).trans (ssubOverflow_eq_bits a b), overflowSub16_eq_overflows a b⟩⟩

/-! ### Half carry (R107) -/

theorem toInt_toNat_and_0xF (a : Byte) : ((a &&& 0xF).toNat : Int) = a.toNat % 16 := by
  rw [BitVec.toNat_and]
  exact congrArg Nat.cast (Nat.and_two_pow_sub_one_eq_mod a.toNat 4)

theorem toInt_toNat_and_0xFFF (a : Word) : ((a &&& 0xFFF).toNat : Int) = a.toNat % 4096 := by
  rw [BitVec.toNat_and]
  exact congrArg Nat.cast (Nat.and_two_pow_sub_one_eq_mod a.toNat 12)

theorem halfCarryAdd8_eq (a b : Byte) : halfCarryAdd8 a b = decide ((a.toNat : Int) % 16 + b.toNat % 16 > 15) := by
  rw [← toInt_toNat_and_0xF, ← toInt_toNat_and_0xF, halfCarryAdd8, decide_eq_decide]
  omega

theorem halfCarrySub8_eq (a b : Byte) : halfCarrySub8 a b = decide ((b.toNat : Int) % 16 > a.toNat % 16) := by
  rw [← toInt_toNat_and_0xF, ← toInt_toNat_and_0xF, halfCarrySub8, decide_eq_decide]
  omega

theorem halfCarryAdd16_eq (a b : Word) : halfCarryAdd16 a b = decide ((a.toNat : Int) % 4096 + b.toNat % 4096 > 4095) := by
  rw [← toInt_toNat_and_0xFFF, ← toInt_toNat_and_0xFFF, halfCarryAdd16, decide_eq_decide]
  omega

theorem halfCarrySub16_eq (a b : Word) : halfCarrySub16 a b = decide ((b.toNat : Int) % 4096 > a.toNat % 4096) := by
  rw [← toInt_toNat_and_0xFFF, ← toInt_toNat_and_0xFFF, halfCarrySub16, decide_eq_decide]
  omega

/-! ### The flags as integers -/

/-- The flags of an operation of width `w` with result `v`; `F5` and `F3` are bits `i5` and `i3` of it (R101 to R105). -/
def resultFlags (w i5 i3 : Nat) (v : Int) (h pv n c : Bool) : FlagVals where
  s := bitOf v (w - 1)
  z := decide (v = 0)
  f5 := bitOf v i5
  h := h
  f3 := bitOf v i3
  pv := pv
  n := n
  c := c

theorem resultFlags_toNat {w : Nat} (r : BitVec w) (i5 i3 : Nat) (h pv n c : Bool) :
    resultFlags w i5 i3 r.toNat h pv n c =
      { s := r.getLsbD (w - 1), z := r == 0, f5 := r.getLsbD i5, h := h, f3 := r.getLsbD i3, pv := pv, n := n, c := c } := by
  simp only [resultFlags, bitOf_toNat, decide_toInt_toNat_eq_zero]

theorem add8Flags_eq (a b : Byte) : add8Flags a b =
    resultFlags 8 5 3 (a + b).toNat (decide ((a.toNat : Int) % 16 + b.toNat % 16 > 15))
      (overflows 8 (signedOf 8 a.toNat + signedOf 8 b.toNat)) false (decide ((a.toNat : Int) + b.toNat > 255)) := by
  have hcarry : (sum9 a b).getLsbD 8 = decide ((a.toNat : Int) + b.toNat > 255) := by
    rw [sum9, getLsbD_setWidth_add, decide_eq_decide]
    omega
  rw [add8Flags, add8_eq, halfCarryAdd8_eq, overflowAdd8_eq_overflows, hcarry, resultFlags_toNat]

theorem sub8Flags_eq (a b : Byte) : sub8Flags a b =
    resultFlags 8 5 3 (a - b).toNat (decide ((b.toNat : Int) % 16 > a.toNat % 16))
      (overflows 8 (signedOf 8 a.toNat - signedOf 8 b.toNat)) true (decide ((a.toNat : Int) < b.toNat)) := by
  have hborrow : (diff9 a b).getLsbD 8 = decide ((a.toNat : Int) < b.toNat) := by
    rw [diff9, getLsbD_setWidth_sub, decide_eq_decide, Nat.cast_lt]
  rw [sub8Flags, sub8_eq, halfCarrySub8_eq, overflowSub8_eq_overflows, hborrow, resultFlags_toNat]

theorem add16Flags_eq (src : F35Source) (a b : Word) : add16Flags src a b =
    resultFlags 16 (f35Bits src).1 (f35Bits src).2 (a + b).toNat (decide ((a.toNat : Int) % 4096 + b.toNat % 4096 > 4095))
      (overflows 16 (signedOf 16 a.toNat + signedOf 16 b.toNat)) false (decide ((a.toNat : Int) + b.toNat > 65535)) := by
  have hcarry : (sum17 a b).getLsbD 16 = decide ((a.toNat : Int) + b.toNat > 65535) := by
    rw [sum17, getLsbD_setWidth_add, decide_eq_decide]
    omega
  rw [add16Flags, add16_eq, halfCarryAdd16_eq, overflowAdd16_eq_overflows, hcarry, resultFlags_toNat]

theorem sub16Flags_eq (src : F35Source) (a b : Word) : sub16Flags src a b =
    resultFlags 16 (f35Bits src).1 (f35Bits src).2 (a - b).toNat (decide ((b.toNat : Int) % 4096 > a.toNat % 4096))
      (overflows 16 (signedOf 16 a.toNat - signedOf 16 b.toNat)) true (decide ((a.toNat : Int) < b.toNat)) := by
  have hborrow : (diff17 a b).getLsbD 16 = decide ((a.toNat : Int) < b.toNat) := by
    rw [diff17, getLsbD_setWidth_sub, decide_eq_decide, Nat.cast_lt]
  rw [sub16Flags, sub16_eq, halfCarrySub16_eq, overflowSub16_eq_overflows, hborrow, resultFlags_toNat]

theorem f35Bits_eq (s : State) : f35Bits s.params.f35_16 = (f5Bit s, f3Bit s) := by
  unfold f5Bit f3Bit
  cases s.params.f35_16 <;> rfl

/-! ### Answers that write flags -/

section flagWrites

variable {i : Instr} {s : State} {v : Int} {en : Byte} {fv : FlagVals}

theorem flagsAre_toByte (fv : FlagVals) : FlagsAre fv.toByte fv.s fv.z fv.f5 fv.h fv.f3 fv.pv fv.n fv.c :=
  ⟨getLsbD_toByte_s fv, getLsbD_toByte_z fv, getLsbD_toByte_f5 fv, getLsbD_toByte_h fv, getLsbD_toByte_f3 fv,
    getLsbD_toByte_pv fv, getLsbD_toByte_n fv, getLsbD_toByte_c fv⟩

theorem getLsbD_flags_mergeFlags (rf : RegFile) (en nf : Byte) {k : Nat} {new : Bool} (hk : k < 8) (hnew : nf.getLsbD k = new) :
    (rf.mergeFlags en nf).flags.getLsbD k = pick en rf k new := by
  rw [mergeFlags_bit rf en nf k hk, hnew, pick, flag_eq_flags_bit rf hk]

/-- The eight flags after a write under an enable mask (R100). -/
theorem flagsAre_mergeFlags (rf : RegFile) (en : Byte) (fv : FlagVals) : FlagsAre (rf.mergeFlags en fv.toByte).flags
    (pick en rf 7 fv.s) (pick en rf 6 fv.z) (pick en rf 5 fv.f5) (pick en rf 4 fv.h) (pick en rf 3 fv.f3) (pick en rf 2 fv.pv)
    (pick en rf 1 fv.n) (pick en rf 0 fv.c) := by
  obtain ⟨hs, hz, hf5, hh, hf3, hpv, hn, hc⟩ := flagsAre_toByte fv
  have hbit {k : Nat} {new : Bool} := getLsbD_flags_mergeFlags rf en fv.toByte (k := k) (new := new)
  exact ⟨hbit (by decide) hs, hbit (by decide) hz, hbit (by decide) hf5, hbit (by decide) hh, hbit (by decide) hf3,
    hbit (by decide) hpv, hbit (by decide) hn, hbit (by decide) hc⟩

theorem withF_flags_mergeFlags (rf : RegFile) (en nf : Byte) : withF rf (rf.mergeFlags en nf).flags = rf.mergeFlags en nf := by
  rw [withF_eq_writeFlags, RegFile.mergeFlags, flags_writeFlags]

theorem exists_flags_of_answers_mergeFlags (h : Answers i s (s.rf.mergeFlags en fv.toByte) v) :
    ∃ f, Answers i s (withF s.rf f) v ∧
      FlagsAre f (pick en s.rf 7 fv.s) (pick en s.rf 6 fv.z) (pick en s.rf 5 fv.f5) (pick en s.rf 4 fv.h)
        (pick en s.rf 3 fv.f3) (pick en s.rf 2 fv.pv) (pick en s.rf 1 fv.n) (pick en s.rf 0 fv.c) :=
  ⟨_, (withF_flags_mergeFlags ..).symm ▸ h, flagsAre_mergeFlags s.rf en fv⟩

theorem exists_flags_of_answers_writeFlags (h : Answers i s (s.rf.writeFlags fv.toByte) v) :
    ∃ f, Answers i s (withF s.rf f) v ∧ FlagsAre f fv.s fv.z fv.f5 fv.h fv.f3 fv.pv fv.n fv.c :=
  ⟨_, (withF_eq_writeFlags ..).symm ▸ h, flagsAre_toByte fv⟩

end flagWrites

/-! ### The four commands (R101 to R105) -/

section answers

variable (en : Byte) (s : State)

theorem answers_subtract8 (a b : Byte) :
    Answers (.subtract8 en a.toNat b.toNat) s (s.rf.mergeFlags en (sub8Flags a b).toByte) (a - b).toNat := by
  rw [Answers, exec, execSubtract8, subtract8With, require8_toNat, require8_toNat, sub8_eq]
  rfl

theorem answers_add8 (a b : Byte) :
    Answers (.add8 en a.toNat b.toNat) s (s.rf.mergeFlags en (add8Flags a b).toByte) (a + b).toNat := by
  rw [Answers, exec, execAdd8, require8_toNat, require8_toNat, add8_eq]
  rfl

theorem answers_add16 (a b : Word) :
    Answers (.add16 a.toNat b.toNat) s (s.rf.writeFlags (add16Flags s.params.f35_16 a b).toByte) (a + b).toNat := by
  rw [Answers, exec, execAdd16, require16_toNat, require16_toNat, add16_eq]
  rfl

theorem answers_subtract16 (a b : Word) :
    Answers (.subtract16 a.toNat b.toNat) s (s.rf.writeFlags (sub16Flags s.params.f35_16 a b).toByte) (a - b).toNat := by
  rw [Answers, exec, execSubtract16, require16_toNat, require16_toNat, sub16_eq]
  rfl

end answers

/-- Settles O33: the flags of `sub8Flags_eq` under the mask, or the operand check. -/
theorem subtract8WritesEnabledFlags : Obligations.Subtract8WritesEnabledFlags := by
  refine fun en x y s => ⟨fun ⟨hx, hy⟩ => ?_, require_pair_outside s⟩
  obtain ⟨a, rfl⟩ := exists_byte_of_within hx
  obtain ⟨b, rfl⟩ := exists_byte_of_within hy
  have h := exists_flags_of_answers_mergeFlags (answers_subtract8 en s a b)
  rwa [sub8Flags_eq, toInt_toNat_sub] at h

/-- Settles O34: `subtract8VC` is performed as `subtract8` with the mask 0xFF. -/
theorem subtract8VCWritesAllFlags : Obligations.Subtract8VCWritesAllFlags := by
  intro x y s
  obtain ⟨hinside, houtside⟩ := subtract8WritesEnabledFlags 0xFF x y s
  exact ⟨hinside, houtside, rfl⟩

/-- Settles O35: the flags of `add8Flags_eq` under the mask, or the operand check. -/
theorem add8WritesEnabledFlags : Obligations.Add8WritesEnabledFlags := by
  refine fun en x y s => ⟨fun ⟨hx, hy⟩ => ?_, require_pair_outside s⟩
  obtain ⟨a, rfl⟩ := exists_byte_of_within hx
  obtain ⟨b, rfl⟩ := exists_byte_of_within hy
  have h := exists_flags_of_answers_mergeFlags (answers_add8 en s a b)
  rwa [add8Flags_eq, toInt_toNat_add] at h

/-- Settles O36: the flags of `add16Flags_eq`, or the operand check. -/
theorem add16WritesAllFlags : Obligations.Add16WritesAllFlags := by
  refine fun x y s => ⟨fun ⟨hx, hy⟩ => ?_, require_pair_outside s⟩
  obtain ⟨a, rfl⟩ := exists_word_of_within hx
  obtain ⟨b, rfl⟩ := exists_word_of_within hy
  have h := exists_flags_of_answers_writeFlags (answers_add16 s a b)
  rwa [add16Flags_eq, f35Bits_eq, toInt_toNat_add] at h

/-- Settles O37: the flags of `sub16Flags_eq`, or the operand check. -/
theorem subtract16WritesAllFlags : Obligations.Subtract16WritesAllFlags := by
  refine fun x y s => ⟨fun ⟨hx, hy⟩ => ?_, require_pair_outside s⟩
  obtain ⟨a, rfl⟩ := exists_word_of_within hx
  obtain ⟨b, rfl⟩ := exists_word_of_within hy
  have h := exists_flags_of_answers_writeFlags (answers_subtract16 s a b)
  rwa [sub16Flags_eq, f35Bits_eq, toInt_toNat_sub] at h

/-! ### Addition undoes subtraction -/

theorem fits24_byte (b : Byte) : fits24 b.toNat := by
  obtain ⟨hlow, hhigh⟩ := byte_within b
  exact ⟨le_trans (by decide) hlow, hhigh.trans (by decide)⟩

/-- Settles O39: on bytes `a - b + b` is `a`. -/
theorem addUndoesSubtract : Obligations.AddUndoesSubtract := by
  intro en en' x y s hx hy
  obtain ⟨a, rfl⟩ := exists_byte_of_within hx
  obtain ⟨b, rfl⟩ := exists_byte_of_within hy
  have hadd (t : State) := chain_one_of_answers (op := (.add8 en' · b.toNat)) (answers_add8 en' t (a - b) b) (fits24_byte _)
  rw [BitVec.sub_add_cancel] at hadd
  exact ⟨_, _, _, chain_one_of_answers (answers_subtract8 en s a b) (fits24_byte _), hadd _⟩

/-! ### Increment and decrement (R110 to R113) -/

section incDec

variable (s : State)

theorem answers_inc8 (b : Byte) : Answers (.inc8 b.toNat) s s.rf ((b.toNat + 1) % 256) := by
  have hres : ((b + 1).toNat : Int) = (b.toNat + 1) % 256 := toInt_toNat_add b 1
  rw [← hres, Answers, exec, execInc8, require8_toNat]
  rfl

theorem answers_dec8 (b : Byte) : Answers (.dec8 b.toNat) s s.rf ((b.toNat - 1) % 256) := by
  have hres : ((b - 1).toNat : Int) = (b.toNat - 1) % 256 := toInt_toNat_sub b 1
  rw [← hres, Answers, exec, execDec8, require8_toNat]
  rfl

theorem answers_inc16 (w : Word) : Answers (.inc16 w.toNat) s s.rf ((w.toNat + 1) % 65536) := by
  have hres : ((w + 1).toNat : Int) = (w.toNat + 1) % 65536 := toInt_toNat_add w 1
  rw [← hres, Answers, exec, execInc16, require16_toNat]
  rfl

theorem answers_dec16 (w : Word) : Answers (.dec16 w.toNat) s s.rf ((w.toNat - 1) % 65536) := by
  have hres : ((w - 1).toNat : Int) = (w.toNat - 1) % 65536 := toInt_toNat_sub w 1
  rw [← hres, Answers, exec, execDec16, require16_toNat]
  rfl

end incDec

/-- Settles O40: the operand plus and minus 1 on bytes, or the operand check. -/
theorem incDec8OnlyCompute : Obligations.IncDec8OnlyCompute := by
  refine fun x s => ⟨fun hx => ?_, fun hx => ⟨require_outside hx, require_outside hx⟩⟩
  obtain ⟨b, rfl⟩ := exists_byte_of_within hx
  exact ⟨answers_inc8 s b, answers_dec8 s b⟩

/-- Settles O41: the operand plus and minus 1 on words, or the operand check. -/
theorem incDec16OnlyCompute : Obligations.IncDec16OnlyCompute := by
  refine fun x s => ⟨fun hx => ?_, fun hx => ⟨require_outside hx, require_outside hx⟩⟩
  obtain ⟨w, rfl⟩ := exists_word_of_within hx
  exact ⟨answers_inc16 s w, answers_dec16 s w⟩

end Sys2Proof.Machine

/-! PROOFS. Parity and bitwise logic (44_parity_logic.md): parity as a count of bits (R120), and the accumulator operations
(R121 to R123). -/

namespace Sys2Proof.Machine

open Sys2Proof Sys2Proof.Claims

/-! ### Parity as a count of bits (R120) -/

theorem toInt_toNat_getLsbD {w : Nat} (a : BitVec w) (k : Nat) : ((a.getLsbD k).toNat : Int) = a.toNat / 2 ^ k % 2 := by
  rw [BitVec.getLsbD, Nat.toNat_testBit]
  norm_cast

/-- The eight bits the model adds up are the eight low binary digits the statements count (R120). -/
theorem evenBits_toNat (b : Byte) : evenBits b.toNat = evenParity b := by
  have hsum : ((List.range 8).map fun k => (b.toNat : Int) / 2 ^ k % 2).sum =
      (((List.range 8).map fun k => (b.getLsbD k).toNat).sum : Nat) := by
    simp only [← toInt_toNat_getLsbD, Nat.cast_list_sum, List.map_map]
    rfl
  rw [evenBits, hsum, evenParity, beq_eq_decide, decide_eq_decide]
  simp only [List.range, List.range.loop, List.map_cons, List.map_nil, List.sum_cons, List.sum_nil]
  omega

theorem answers_parity8 (b : Byte) (s : State) : Answers (.parity8 b.toNat) s s.rf (zeroOne (evenBits b.toNat)) := by
  rw [evenBits_toNat, ← toNat_eq_zeroOne, Answers, exec, execParity8, require8_toNat]
  rfl

/-- Settles O42: inside the range by `evenBits_toNat`, outside it by the operand check. -/
theorem parity8CountsBits : Obligations.Parity8CountsBits := by
  refine fun x s => ⟨fun hx => ?_, fun hx => require_outside hx⟩
  obtain ⟨b, rfl⟩ := exists_byte_of_within hx
  exact answers_parity8 b s

/-! ### The accumulator operations (R121 to R123) -/

theorem logicFlags_eq (h : Bool) (r : Byte) : logicFlags h r = resultFlags 8 5 3 r.toNat h (evenBits r.toNat) false false := by
  rw [resultFlags_toNat, evenBits_toNat, logicFlags]

/-- Writing `A` and `F` in one write of `AF`. -/
theorem withAF_toNat (rf : RegFile) (a f : Byte) : withAF rf a.toNat f = { rf with af := joinBytes a f } := by
  rw [withAF, joinBytes_eq_ofInt]

section logic

variable {s : State} {h : Bool}

theorem logicAnswers_of_answerLogic {i : Instr} {r : Byte} (hexec : exec i s = s.answerLogic h r) :
    LogicAnswers i s r.toNat h := by
  refine ⟨(logicFlags h r).toByte, ?_, ?_⟩
  · rw [withAF_toNat]
    exact hexec
  · rw [logicFlags_eq]
    exact flagsAre_toByte _

/-- What R121 to R123 have in common: an operation on bytes `f`, which is `g` on the numbers, combines `A` with the operand. -/
theorem logicAnswers_inside_errs_outside {i : Instr} {x : Int} {f : Byte → Byte → Byte} {g : Nat → Nat → Nat}
    (hexec : exec i s = s.require8 x fun n => s.answerLogic h (f s.rf.accu n))
    (hfg : ∀ a n : Byte, (f a n).toNat = g a.toNat n.toNat) :
    (within 0 255 x → LogicAnswers i s (g (accu s.rf) x.toNat : Nat) h) ∧
    (¬within 0 255 x → Errs i s .operandOutOfRange) := by
  refine ⟨fun hx => ?_, fun hx => hexec.trans (require_outside hx)⟩
  obtain ⟨n, rfl⟩ := exists_byte_of_within hx
  rw [accu_eq_toNat_accu, Int.toNat_natCast, ← hfg]
  exact logicAnswers_of_answerLogic (hexec.trans (require8_toNat s n _))

end logic

/-- Settles O43: bitwise AND of bytes is that of the numbers. -/
theorem andNRewritesAF : Obligations.AndNRewritesAF :=
  fun _ _ => logicAnswers_inside_errs_outside rfl BitVec.toNat_and

/-- Settles O44: bitwise OR of bytes is that of the numbers. -/
theorem orNRewritesAF : Obligations.OrNRewritesAF :=
  fun _ _ => logicAnswers_inside_errs_outside rfl BitVec.toNat_or

/-- Settles O45: bitwise XOR of bytes is that of the numbers. -/
theorem xorNRewritesAF : Obligations.XorNRewritesAF :=
  fun _ _ => logicAnswers_inside_errs_outside rfl BitVec.toNat_xor

end Sys2Proof.Machine

/-! PROOFS. Rotates and shifts by one bit (45_rotate_shift.md): the answers and the flags of R130, and the rotates as turns of a
ring, of the byte alone or of the carry and the byte. -/

namespace Sys2Proof.Machine

open Sys2Proof Sys2Proof.Claims

/-! ### Moving the bits of a byte by one -/

section bitMoves

variable (v : Byte) (b : Bool)

theorem shiftLeftIn_eq_concat : shiftLeftIn v b = (v.setWidth 7).concat b := by
  ext k hk
  cases k with
  | zero => simp [shiftLeftIn]
  | succ k =>
    have hlt : k < 8 := by omega
    simp [shiftLeftIn, BitVec.getLsbD_eq_getElem hlt]

theorem shiftRightIn_eq_cons : shiftRightIn v b = BitVec.cons b (v.extractLsb' 1 7) := by
  ext k hk
  by_cases hk7 : k = 7
  · subst hk7
    simp [shiftRightIn, BitVec.getElem_cons]
  · have hlt : k < 7 := by omega
    simp [shiftRightIn, BitVec.getElem_cons, hk7, hlt]

theorem toInt_toNat_shiftLeftIn : ((shiftLeftIn v b).toNat : Int) = 2 * v.toNat % 256 + zeroOne b := by
  rw [shiftLeftIn_eq_concat, BitVec.toNat_concat, BitVec.toNat_setWidth, ← toNat_eq_zeroOne]
  omega

theorem toInt_toNat_shiftRightIn : ((shiftRightIn v b).toNat : Int) = v.toNat / 2 + zeroOne b * 128 := by
  have hv := v.isLt
  rw [shiftRightIn_eq_cons, BitVec.toNat_cons', BitVec.extractLsb'_toNat, Nat.shiftLeft_eq, Nat.shiftRight_eq_div_pow,
    ← toNat_eq_zeroOne]
  omega

theorem zeroOne_getLsbD_seven : zeroOne (v.getLsbD 7) = v.toNat / 128 := by
  have hv := v.isLt
  rw [← toNat_eq_zeroOne, toInt_toNat_getLsbD]
  omega

theorem zeroOne_getLsbD_zero : zeroOne (v.getLsbD 0) = v.toNat % 2 := by
  rw [← toNat_eq_zeroOne, toInt_toNat_getLsbD]
  omega

theorem getLsbD_zero_shiftLeftIn : (shiftLeftIn v b).getLsbD 0 = b := by
  simp [shiftLeftIn_eq_concat]

theorem getLsbD_seven_shiftRightIn : (shiftRightIn v b).getLsbD 7 = b := by
  rw [shiftRightIn_eq_cons, BitVec.getLsbD_cons, if_pos rfl]

/-- A right shift undoes a left shift when the bit that left enters again. -/
theorem shiftRightIn_shiftLeftIn : shiftRightIn (shiftLeftIn v b) (v.getLsbD 7) = v := by
  rw [← BitVec.toNat_inj, ← Int.natCast_inj, toInt_toNat_shiftRightIn, toInt_toNat_shiftLeftIn, zeroOne_getLsbD_seven,
    ← toNat_eq_zeroOne]
  have hb := b.toNat_lt
  omega

theorem shiftLeftIn_shiftRightIn : shiftLeftIn (shiftRightIn v b) (v.getLsbD 0) = v := by
  rw [← BitVec.toNat_inj, ← Int.natCast_inj, toInt_toNat_shiftLeftIn, toInt_toNat_shiftRightIn, zeroOne_getLsbD_zero,
    ← toNat_eq_zeroOne]
  have hv := v.isLt
  omega

end bitMoves

/-! ### The eight commands (R131 to R138) -/

theorem carry_eq_flag (rf : RegFile) : rf.carry = flag rf 0 := (flag_eq_flags_bit rf (by decide)).symm

section rotate

variable {s : State}

theorem rotateAnswers_of_answerRotate {i : Instr} {r : Byte} {c : Bool} (hexec : exec i s = s.answerRotate r c) :
    RotateAnswers i s r.toNat (zeroOne c) := by
  have hc : decide (zeroOne c = 1) = c := by cases c <;> rfl
  rw [RotateAnswers, bitOf_toNat, decide_toInt_toNat_eq_zero, evenBits_toNat, hc, flag_eq_flags_bit _ (by decide),
    flag_eq_flags_bit _ (by decide)]
  exact exists_flags_of_answers_writeFlags (fv := rotateFlags s.rf.flags r c) hexec

/-- What R131 to R138 have in common: the operand is checked, and the result `res` and the exit bit `cout` are `r` and `c` on the
numbers. -/
theorem rotateAnswers_inside_errs_outside {i : Instr} {x : Int} {res : Byte → Byte} {cout : Byte → Bool} {r c : Int → Int}
    (hexec : exec i s = s.require8 x fun v => s.answerRotate (res v) (cout v))
    (hres : ∀ v : Byte, ((res v).toNat : Int) = r v.toNat) (hcout : ∀ v : Byte, zeroOne (cout v) = c v.toNat) :
    (within 0 255 x → RotateAnswers i s (r x) (c x)) ∧ (¬within 0 255 x → Errs i s .operandOutOfRange) := by
  refine ⟨fun hx => ?_, fun hx => hexec.trans (require_outside hx)⟩
  obtain ⟨v, rfl⟩ := exists_byte_of_within hx
  rw [← hres, ← hcout]
  exact rotateAnswers_of_answerRotate (hexec.trans (require8_toNat s v _))

/-- A command to the left: bit 7 exits, `b` enters at bit 0. -/
theorem rotateAnswers_left {i : Instr} {x : Int} {b : Byte → Bool} {e : Int → Int}
    (hexec : exec i s = s.require8 x fun v => s.answerRotate (shiftLeftIn v (b v)) (v.getLsbD 7))
    (hb : ∀ v : Byte, zeroOne (b v) = e v.toNat) :
    (within 0 255 x → RotateAnswers i s (2 * x % 256 + e x) (x / 128)) ∧ (¬within 0 255 x → Errs i s .operandOutOfRange) :=
  rotateAnswers_inside_errs_outside (r := fun x => 2 * x % 256 + e x) (c := (· / 128)) hexec
    (fun v => by rw [toInt_toNat_shiftLeftIn, hb]) zeroOne_getLsbD_seven

/-- A command to the right: bit 0 exits, `b` enters at bit 7. -/
theorem rotateAnswers_right {i : Instr} {x : Int} {b : Byte → Bool} {e : Int → Int}
    (hexec : exec i s = s.require8 x fun v => s.answerRotate (shiftRightIn v (b v)) (v.getLsbD 0))
    (hb : ∀ v : Byte, zeroOne (b v) = e v.toNat) :
    (within 0 255 x → RotateAnswers i s (x / 2 + e x * 128) (x % 2)) ∧ (¬within 0 255 x → Errs i s .operandOutOfRange) :=
  rotateAnswers_inside_errs_outside (r := fun x => x / 2 + e x * 128) (c := (· % 2)) hexec
    (fun v => by rw [toInt_toNat_shiftRightIn, hb]) zeroOne_getLsbD_zero

end rotate

/-- Settles O46: bit 7 is both the exit bit and the bit that enters. -/
theorem rotateLeftCarryMovesBit7 : Obligations.RotateLeftCarryMovesBit7 :=
  fun _ _ => rotateAnswers_left (b := (·.getLsbD 7)) (e := (· / 128)) rfl zeroOne_getLsbD_seven

/-- Settles O47: the old carry enters. -/
theorem rotateLeftTakesOldCarry : Obligations.RotateLeftTakesOldCarry :=
  fun _ s => rotateAnswers_left (b := fun _ => s.rf.carry) (e := fun _ => zeroOne (flag s.rf 0)) rfl
    fun _ => congrArg zeroOne (carry_eq_flag s.rf)

/-- Settles O48: bit 0 is both the exit bit and the bit that enters. -/
theorem rotateRightCarryMovesBit0 : Obligations.RotateRightCarryMovesBit0 :=
  fun _ _ => rotateAnswers_right (b := (·.getLsbD 0)) (e := (· % 2)) rfl zeroOne_getLsbD_zero

/-- Settles O49: the old carry enters. -/
theorem rotateRightTakesOldCarry : Obligations.RotateRightTakesOldCarry :=
  fun _ s => rotateAnswers_right (b := fun _ => s.rf.carry) (e := fun _ => zeroOne (flag s.rf 0)) rfl
    fun _ => congrArg zeroOne (carry_eq_flag s.rf)

/-- Settles O50: 0 enters, so the result is the operand doubled modulo 256. -/
theorem shiftLeftEntersZero : Obligations.ShiftLeftEntersZero := by
  intro x s
  have h := rotateAnswers_left (i := .shiftLeft x) (s := s) (x := x) (b := fun _ => false) (e := fun _ => 0) rfl fun _ => rfl
  rwa [Int.add_zero] at h

/-- Settles O51: 1 enters. -/
theorem shiftLeftLogicalEntersOne : Obligations.ShiftLeftLogicalEntersOne :=
  fun _ _ => rotateAnswers_left (b := fun _ => true) (e := fun _ => 1) rfl fun _ => rfl

/-- Settles O52: bit 7 enters where it was. -/
theorem shiftRightKeepsSign : Obligations.ShiftRightKeepsSign :=
  fun _ _ => rotateAnswers_right (b := (·.getLsbD 7)) (e := (· / 128)) rfl zeroOne_getLsbD_seven

/-- Settles O53: 0 enters, so the result is half the operand. -/
theorem shiftRightLogicalEntersZero : Obligations.ShiftRightLogicalEntersZero := by
  intro x s
  have h := rotateAnswers_right (i := .shiftRightLogical x) (s := s) (x := x) (b := fun _ => false) (e := fun _ => 0) rfl
    fun _ => rfl
  rwa [Int.zero_mul, Int.add_zero] at h

/-! ### A ring of bits, turned by one as often as it is wide -/

section ring

variable {w : Nat} (x : BitVec w)

/-- One turn moves each bit up by one, and the topmost to the bottom. -/
theorem getLsbD_rotateLeft_one (hw : 1 < w) {k : Nat} (hk : k < w) :
    (x.rotateLeft 1).getLsbD ((k + 1) % w) = x.getLsbD k := by
  rw [BitVec.getLsbD_rotateLeft, Nat.mod_eq_of_lt hw]
  rcases Nat.lt_or_eq_of_le (Nat.succ_le_of_lt hk) with hlt | htop
  · simp [Nat.mod_eq_of_lt hlt, hlt]
  · subst htop
    simp

theorem getLsbD_iterate_rotateLeft_one (hw : 1 < w) (n : Nat) {k : Nat} (hk : k < w) :
    (((·.rotateLeft 1)^[n]) x).getLsbD ((k + n) % w) = x.getLsbD k := by
  induction n with
  | zero => rw [Nat.add_zero, Nat.mod_eq_of_lt hk, Function.iterate_zero, id_eq]
  | succ n ih =>
    have hturn := getLsbD_rotateLeft_one (((·.rotateLeft 1)^[n]) x) hw (Nat.mod_lt (k + n) (by omega))
    rw [Nat.mod_add_mod] at hturn
    rw [Function.iterate_succ_apply', ← Nat.add_assoc, hturn, ih]

theorem iterate_rotateLeft_one_eq_self (hw : 1 < w) : ((·.rotateLeft 1)^[w]) x = x := by
  refine BitVec.eq_of_getLsbD_eq fun k hk => ?_
  rw [← getLsbD_iterate_rotateLeft_one x hw w hk, Nat.add_mod_right, Nat.mod_eq_of_lt hk]

end ring

/-! ### The four rotates as turns of a ring -/

/-- The operand and the carry after `rotateLeft` (R132). -/
def leftThroughCarry (p : Byte × Bool) : Byte × Bool := (shiftLeftIn p.1 p.2, p.1.getLsbD 7)

/-- The operand and the carry after `rotateRight` (R134). -/
def rightThroughCarry (p : Byte × Bool) : Byte × Bool := (shiftRightIn p.1 p.2, p.1.getLsbD 0)

/-- The operand and the carry after `rotateLeftCarry` (R131); the old carry is lost. -/
def leftAround (p : Byte × Bool) : Byte × Bool := (shiftLeftIn p.1 (p.1.getLsbD 7), p.1.getLsbD 7)

/-- The operand and the carry after `rotateRightCarry` (R133); the old carry is lost. -/
def rightAround (p : Byte × Bool) : Byte × Bool := (shiftRightIn p.1 (p.1.getLsbD 0), p.1.getLsbD 0)

/-- The carry and the operand as one word of nine bits, the carry on top. -/
def carryWord (p : Byte × Bool) : BitVec 9 := BitVec.cons p.2 p.1

theorem carryWord_injective : Function.Injective carryWord := by
  intro p q h
  refine Prod.ext ?_ ?_
  · simpa [carryWord] using congrArg (·.setWidth 8) h
  · simpa [carryWord] using congrArg BitVec.msb h

theorem rightThroughCarry_leftThroughCarry (p : Byte × Bool) : rightThroughCarry (leftThroughCarry p) = p :=
  Prod.ext (shiftRightIn_shiftLeftIn ..) (getLsbD_zero_shiftLeftIn ..)

theorem leftThroughCarry_rightThroughCarry (p : Byte × Bool) : leftThroughCarry (rightThroughCarry p) = p :=
  Prod.ext (shiftLeftIn_shiftRightIn ..) (getLsbD_seven_shiftRightIn ..)

theorem carryWord_leftThroughCarry (p : Byte × Bool) : carryWord (leftThroughCarry p) = (carryWord p).rotateLeft 1 := by
  ext k hk
  rw [BitVec.getElem_rotateLeft, carryWord, leftThroughCarry, shiftLeftIn_eq_concat]
  cases k with
  | zero => simp [BitVec.getElem_cons, carryWord]
  | succ k =>
    by_cases hk7 : k = 7
    · subst hk7
      simp [BitVec.getElem_cons, carryWord]
    · have hlt : k < 8 := by omega
      simp [BitVec.getElem_cons, carryWord, hk7, hlt.ne, BitVec.getLsbD_eq_getElem hlt]

theorem shiftLeftIn_getLsbD_seven (v : Byte) : shiftLeftIn v (v.getLsbD 7) = v.rotateLeft 1 := by
  ext k hk
  rw [BitVec.getElem_rotateLeft, shiftLeftIn_eq_concat]
  cases k with
  | zero => simp
  | succ k =>
    have hlt : k < 8 := by omega
    simp [BitVec.getLsbD_eq_getElem hlt]

theorem iterate_leftThroughCarry (p : Byte × Bool) : leftThroughCarry^[9] p = p := by
  refine carryWord_injective ?_
  have hturn : Function.Semiconj carryWord leftThroughCarry (·.rotateLeft 1) := carryWord_leftThroughCarry
  rw [(hturn.iterate_right 9).eq, iterate_rotateLeft_one_eq_self _ (by decide)]

theorem iterate_rightThroughCarry (p : Byte × Bool) : rightThroughCarry^[9] p = p := by
  have hundo : Function.LeftInverse rightThroughCarry^[9] leftThroughCarry^[9] :=
    Function.LeftInverse.iterate rightThroughCarry_leftThroughCarry 9
  simpa only [iterate_leftThroughCarry] using hundo p

theorem fst_iterate_leftAround (p : Byte × Bool) : (leftAround^[8] p).1 = p.1 := by
  have hturn : Function.Semiconj Prod.fst leftAround (·.rotateLeft 1) := fun p => shiftLeftIn_getLsbD_seven p.1
  rw [(hturn.iterate_right 8).eq, iterate_rotateLeft_one_eq_self _ (by decide)]

/-- `rotateRightCarry` as a turn of the byte: the inverse of its turn to the left. -/
theorem leftInverse_rotateLeft_one : Function.LeftInverse (fun v : Byte => shiftRightIn v (v.getLsbD 0)) (·.rotateLeft 1) := by
  intro v
  beta_reduce
  rw [← shiftLeftIn_getLsbD_seven, getLsbD_zero_shiftLeftIn, shiftRightIn_shiftLeftIn]

theorem fst_iterate_rightAround (p : Byte × Bool) : (rightAround^[8] p).1 = p.1 := by
  have hturn : Function.Semiconj Prod.fst rightAround fun v => shiftRightIn v (v.getLsbD 0) := fun _ => rfl
  have hundo := Function.LeftInverse.iterate leftInverse_rotateLeft_one 8 p.1
  rwa [iterate_rotateLeft_one_eq_self _ (by decide), ← (hturn.iterate_right 8).eq] at hundo

/-! ### Chains of rotates -/

/-- The commands of `op` answer with the operand and write the carry that `turn` makes of the operand and the carry. -/
def RotatesBy (op : Int → Instr) (turn : Byte × Bool → Byte × Bool) : Prop :=
  ∀ (x : Int) (s : State),
    exec (op x) s = s.require8 x fun v => s.answerRotate (turn (v, s.rf.carry)).1 (turn (v, s.rf.carry)).2

theorem rotatesBy_rotateLeft : RotatesBy .rotateLeft leftThroughCarry := fun _ _ => rfl

theorem rotatesBy_rotateRight : RotatesBy .rotateRight rightThroughCarry := fun _ _ => rfl

theorem rotatesBy_rotateLeftCarry : RotatesBy .rotateLeftCarry leftAround := fun _ _ => rfl

theorem rotatesBy_rotateRightCarry : RotatesBy .rotateRightCarry rightAround := fun _ _ => rfl

theorem carry_writeFlags_toByte (rf : RegFile) (fv : FlagVals) : (rf.writeFlags fv.toByte).carry = fv.c := by
  rw [RegFile.carry, flags_writeFlags, getLsbD_toByte_c]

section chain

variable {op : Int → Instr} {turn : Byte × Bool → Byte × Bool}

/-- One rotate answers with the turned operand, and of the cells it writes `F` alone, with the turned carry in it. -/
theorem exists_flags_of_rotatesBy (hop : RotatesBy op turn) (s : State) (v : Byte) :
    ∃ f, Answers (op v.toNat) s (s.rf.writeFlags f) (turn (v, s.rf.carry)).1.toNat ∧
      (s.rf.writeFlags f).carry = (turn (v, s.rf.carry)).2 :=
  ⟨_, (hop v.toNat s).trans (require8_toNat s v _), carry_writeFlags_toByte ..⟩

/-- `n` rotates are `n` turns of the operand and the carry, and of the cells they change `F` alone. -/
theorem chain_of_rotatesBy (hop : RotatesBy op turn) (n : Nat) (s : State) (v : Byte) :
    ∃ t : State, chain op n s v.toNat = some (t, ((turn^[n] (v, s.rf.carry)).1.toNat : Int)) ∧
      t.rf.carry = (turn^[n] (v, s.rf.carry)).2 ∧ ∃ f, t.rf = s.rf.writeFlags f := by
  induction n generalizing s v with
  | zero => exact ⟨s, rfl, rfl, s.rf.flags, (writeFlags_flags s.rf).symm⟩
  | succ n ih =>
    obtain ⟨f, hanswers, hcarry⟩ := exists_flags_of_rotatesBy hop s v
    obtain ⟨t, hchain, hcarry', f', hf'⟩ := ih (s.answered (s.rf.writeFlags f) _) (turn (v, s.rf.carry)).1
    rw [answered_rf, hcarry, ← Function.iterate_succ_apply] at hchain hcarry'
    exact ⟨t, (chain_succ_of_answers hanswers (fits24_byte _) n).trans hchain, hcarry', f', hf'.trans (writeFlags_writeFlags ..)⟩

/-- A whole number of turns of the ring gives the operand back. -/
theorem chain_closes (hop : RotatesBy op turn) {n : Nat} {s : State} {v : Byte} (hn : (turn^[n] (v, s.rf.carry)).1 = v) :
    ∃ t : State, chain op n s v.toNat = some (t, (v.toNat : Int)) ∧ ∃ f, t.rf = withF s.rf f := by
  obtain ⟨t, hchain, -, f, hf⟩ := chain_of_rotatesBy hop n s v
  exact ⟨t, by rw [hchain, hn], f, hf.trans (withF_eq_writeFlags ..).symm⟩

/-- A whole number of turns of the ring with the carry in it gives the carry back too. -/
theorem chain_closes_with_carry (hop : RotatesBy op turn) {n : Nat} {s : State} {v : Byte}
    (hn : turn^[n] (v, s.rf.carry) = (v, s.rf.carry)) :
    ∃ t : State, chain op n s v.toNat = some (t, (v.toNat : Int)) ∧ flag t.rf 0 = flag s.rf 0 ∧ ∃ f, t.rf = withF s.rf f := by
  obtain ⟨t, hchain, hcarry, f, hf⟩ := chain_of_rotatesBy hop n s v
  rw [hn] at hchain hcarry
  exact ⟨t, hchain, by rwa [← carry_eq_flag, ← carry_eq_flag], f, hf.trans (withF_eq_writeFlags ..).symm⟩

/-- One rotate, and then one that turns the operand and the carry back. -/
theorem chain_undoes {op' : Int → Instr} {turn' : Byte × Bool → Byte × Bool} (hop : RotatesBy op turn)
    (hop' : RotatesBy op' turn') (hundo : Function.LeftInverse turn' turn) (s : State) (v : Byte) :
    ∃ t r u, chain op 1 s v.toNat = some (t, r) ∧ chain op' 1 t r = some (u, (v.toNat : Int)) ∧
      flag u.rf 0 = flag s.rf 0 := by
  obtain ⟨t, hchain, hcarry, -⟩ := chain_of_rotatesBy hop 1 s v
  obtain ⟨u, hchain', hcarry', -⟩ := chain_of_rotatesBy hop' 1 t (turn (v, s.rf.carry)).1
  rw [Function.iterate_one] at hchain hcarry hchain' hcarry'
  rw [hcarry, Prod.mk.eta, hundo] at hchain' hcarry'
  exact ⟨t, _, u, hchain, hchain', by rwa [← carry_eq_flag, ← carry_eq_flag]⟩

end chain

/-- Settles O54: the ring of the carry and the operand is nine bits wide, the ring of the operand alone eight. -/
theorem rotationRingsClose : Obligations.RotationRingsClose := by
  intro x s hx
  obtain ⟨v, rfl⟩ := exists_byte_of_within hx
  exact ⟨chain_closes_with_carry rotatesBy_rotateLeft (iterate_leftThroughCarry _),
    chain_closes_with_carry rotatesBy_rotateRight (iterate_rightThroughCarry _),
    chain_closes rotatesBy_rotateLeftCarry (fst_iterate_leftAround _),
    chain_closes rotatesBy_rotateRightCarry (fst_iterate_rightAround _)⟩

/-- Settles O55: on the operand and the carry each of the two turns is the inverse of the other. -/
theorem rotateRightUndoesRotateLeft : Obligations.RotateRightUndoesRotateLeft := by
  intro x s hx
  obtain ⟨v, rfl⟩ := exists_byte_of_within hx
  exact ⟨chain_undoes rotatesBy_rotateLeft rotatesBy_rotateRight rightThroughCarry_leftThroughCarry s v,
    chain_undoes rotatesBy_rotateRight rotatesBy_rotateLeft leftThroughCarry_rightThroughCarry s v⟩

end Sys2Proof.Machine

/-! PROOFS. The relative jump and the propagation of bits 5 and 3 (46_pc_and_f53.md): the jump as an addition to `PC` (R150), and
the copy of two bits into `F` (R151, R152). -/

namespace Sys2Proof.Machine

open Sys2Proof Sys2Proof.Claims

/-! ### The relative jump (R150) -/

section jump

variable (pc : Word) (d : Byte)

theorem jumpTarget_eq_ofInt : jumpTarget pc d = BitVec.ofInt 16 ((pc.toNat + signedOf 8 d.toNat) % 65536) := by
  rw [ofInt_emod_65536, jumpTarget, sext8, toInt_eq_signedOf d (by decide)]

theorem toInt_toNat_jumpTarget : ((jumpTarget pc d).toNat : Int) = (pc.toNat + signedOf 8 d.toNat) % 65536 := by
  rw [jumpTarget, toNat_wordOf, sext8, toInt_eq_signedOf d (by decide)]

theorem jumpTarget_eq_add : jumpTarget pc d = pc + wordOf (sext8 d) := by
  rw [jumpTarget, wordOf, BitVec.ofInt_add, BitVec.ofInt_natCast, BitVec.ofNat_toNat, BitVec.setWidth_eq, wordOf]

/-- 0x80 is the one byte whose negative, as a byte, is not its negative as a signed number. -/
theorem sext8_neg {d : Byte} (hd : d ≠ 0x80) : sext8 (-d) = -sext8 d := BitVec.toInt_neg_of_ne_intMin hd

theorem jumpTarget_neg {d : Byte} (hd : d ≠ 0x80) : jumpTarget (jumpTarget pc d) (-d) = pc := by
  rw [jumpTarget_eq_add, jumpTarget_eq_add, sext8_neg hd, wordOf, wordOf, BitVec.ofInt_neg, ← BitVec.sub_eq_add_neg,
    BitVec.add_sub_cancel]

theorem toInt_toNat_neg : ((-d).toNat : Int) = (256 - d.toNat) % 256 := by
  have hlt := d.isLt
  rw [BitVec.toNat_neg]
  omega

theorem exec_offsetPC (s : State) :
    exec (.offsetPC d.toNat) s = .next (s.answered { s.rf with pc := jumpTarget s.rf.pc d } (jumpTarget s.rf.pc d).toNat) := by
  rw [exec, execOffsetPC, require8_toNat]
  rfl

end jump

/-- Settles O56: the target of the model is the sum of the statement, or the operand check. -/
theorem offsetPCAddsSignedByte : Obligations.OffsetPCAddsSignedByte := by
  refine fun x s => ⟨fun hx => ?_, fun hx => require_outside hx⟩
  obtain ⟨d, rfl⟩ := exists_byte_of_within hx
  rw [← jumpTarget_eq_ofInt, ← toInt_toNat_jumpTarget]
  exact exec_offsetPC d s

/-- Settles O57: the opposite displacement is the byte's negative, and `jumpTarget_neg` undoes the jump. -/
theorem oppositeOffsetsRestorePC : Obligations.OppositeOffsetsRestorePC := by
  intro x s hx hne
  obtain ⟨d, rfl⟩ := exists_byte_of_within hx
  have hd : d ≠ 0x80 := fun h => hne (congrArg (fun b : Byte => (b.toNat : Int)) h)
  rw [← toInt_toNat_neg]
  refine ⟨_, _, exec_offsetPC d s, exec_offsetPC (-d) _, ?_⟩
  rw [answered_rf, answered_rf, jumpTarget_neg s.rf.pc hd]

/-! ### The copy of bits 5 and 3 (R151, R152) -/

section copy

variable (rf : RegFile)

theorem flag_eq_accu_bit {k : Nat} (hk : k < 8) : flag rf (8 + k) = rf.accu.getLsbD k := by
  simp [flag, RegFile.accu, hiByte, hk]

theorem flagsAre_copyF5F3 (v : Byte) : FlagsAre (rf.copyF5F3 v).flags (flag rf 7) (flag rf 6) (v.getLsbD 5) (flag rf 4)
    (v.getLsbD 3) (flag rf 2) (flag rf 1) (flag rf 0) := by
  have hbit {k : Nat} (hk : k < 8) := getLsbD_flags_mergeFlags rf 0x28 v hk rfl
  exact ⟨hbit (by decide), hbit (by decide), hbit (by decide), hbit (by decide), hbit (by decide), hbit (by decide),
    hbit (by decide), hbit (by decide)⟩

/-- What R151 and R152 have in common. -/
theorem exists_flags_of_copyF5F3 {i : Instr} {s : State} {v : Byte} (hexec : exec i s = s.answer (s.rf.copyF5F3 v) 0) :
    ∃ f, Answers i s (withF s.rf f) 0 ∧ FlagsAre f (flag s.rf 7) (flag s.rf 6) (v.getLsbD 5) (flag s.rf 4) (v.getLsbD 3)
      (flag s.rf 2) (flag s.rf 1) (flag s.rf 0) := by
  refine ⟨(s.rf.copyF5F3 v).flags, ?_, flagsAre_copyF5F3 s.rf v⟩
  rw [copyF5F3_eq_mergeFlags, withF_flags_mergeFlags]
  exact hexec

end copy

/-- Settles O58: the two bits of the operand are copied, or the operand check. -/
theorem setF5F3CopiesTwoBits : Obligations.SetF5F3CopiesTwoBits := by
  refine fun x s => ⟨fun hx => ?_, fun hx => require_outside hx⟩
  obtain ⟨v, rfl⟩ := exists_byte_of_within hx
  rw [bitOf_toNat, bitOf_toNat]
  refine exists_flags_of_copyF5F3 ?_
  rw [exec, execSetF5F3, require8_toNat]

/-- Settles O59: the byte copied from is `A`, whose bits 5 and 3 are bits 13 and 11 of `AF`. -/
theorem setF5F3FromAccumulatorCopiesA : Obligations.SetF5F3FromAccumulatorCopiesA := by
  intro s
  rw [flag_eq_accu_bit s.rf (k := 5) (by decide), flag_eq_accu_bit s.rf (k := 3) (by decide)]
  exact exists_flags_of_copyF5F3 rfl

end Sys2Proof.Machine

/-! PROOFS. The two errors (60_exceptions.md): each command is answered with `UnknownRegister` exactly where the table of R161
says so, and with `OperandOutOfRange` exactly where the table of R162 does. -/

namespace Sys2Proof.Machine

open Sys2Proof Sys2Proof.Claims

/-! ### Telling the ends of a command apart -/

section ends

variable {s : State} {rf : RegFile} {v : Int} {e e' : ErrorKind}

theorem raised_inj : s.raised e = s.raised e' ↔ e = e' := by
  simp [State.raised, Response.ofError]

theorem answered_ne_raised : s.answered rf v ≠ s.raised e := by
  simp [State.answered, State.raised, Response.ofResult, Response.ofError]

/-- An error status is given by the raise of that error and by nothing else (R164). -/
theorem exec_eq_raised_of_status {i : Instr} {t : State} {r : Response} (hexec : exec i s = .next t)
    (hresponse : t.response = some r) (hstatus : r.status = .error e) : exec i s = .next (s.raised e) := by
  rcases exec_ends i s with ⟨rf, v, hend⟩ | ⟨e', hend⟩
  · obtain rfl : s.answered rf v = t := Host.Outcome.next.inj (hend.symm.trans hexec)
    obtain rfl : Response.ofResult v = r := Option.some.inj hresponse
    exact nomatch hstatus
  · obtain rfl : s.raised e' = t := Host.Outcome.next.inj (hend.symm.trans hexec)
    obtain rfl : Response.ofError e' = r := Option.some.inj hresponse
    obtain rfl : e' = e := Status.error.inj hstatus
    exact hend

end ends

/-! ### The checks of a command against the tables of R161 and R162 -/

/-- The outcome `o` of a command is `UnknownRegister` exactly under `bad`, and `OperandOutOfRange` exactly outside `inRange`. -/
structure RaisesExactly (s : State) (o : Host.Outcome State Fault Refusal) (bad inRange : Prop) : Prop where
  unknown_iff : o = .next (s.raised .unknownRegister) ↔ bad
  outside_iff : o = .next (s.raised .operandOutOfRange) ↔ ¬inRange

section checks

variable {s : State} {lo hi x : Int} {rf : RegFile} {v : Int} {inRange : Prop} {k : Host.Outcome State Fault Refusal}

theorem raisesExactly_answer : RaisesExactly s (s.answer rf v) False True where
  unknown_iff := by simp [State.answer, answered_ne_raised]
  outside_iff := by simp [State.answer, answered_ne_raised]

/-- A range check puts its range before those still to be checked. -/
theorem raisesExactly_require (h : RaisesExactly s k False inRange) :
    RaisesExactly s (s.require lo hi x k) False (within lo hi x ∧ inRange) := by
  by_cases hx : within lo hi x
  · rwa [require_inside hx, and_iff_right hx]
  · rw [require_outside hx]
    exact ⟨by simp [raised_inj], by simp [hx]⟩

theorem raisesExactly_require_answer : RaisesExactly s (s.require lo hi x (s.answer rf v)) False (within lo hi x) := by
  simpa only [and_true] using raisesExactly_require raisesExactly_answer

theorem raisesExactly_requireName {α : Type} {n : Option α} {bad : Prop} {f : α → Host.Outcome State Fault Refusal}
    (hbad : n = none ↔ bad) (h : ∀ a, RaisesExactly s (f a) False True) : RaisesExactly s (s.requireName n f) bad True := by
  cases n with
  | some a => exact ⟨(h a).unknown_iff.trans (by simpa using hbad), (h a).outside_iff⟩
  | none => exact ⟨by simpa using hbad, by simp [raised_inj]⟩

end checks

/-- The tags R161 lists as unknown for flags are those `flagOfTag` gives no flag. -/
theorem flagOfTag_eq_none_iff {t : Byte} : flagOfTag t = none ↔ BadTag (.fget t) := by
  change _ ↔ 0x0B ≤ t.toNat
  revert t
  decide

/-- The tags R161 lists as unknown for groups are those `groupOfTag` gives no group. -/
theorem groupOfTag_eq_none_iff {t : Byte} : groupOfTag t = none ↔ BadTag (.gset t 0) := by
  change _ ↔ 0x04 ≤ t.toNat
  revert t
  decide

/-- The checks each command makes are those of the two tables. -/
theorem exec_raisesExactly (i : Instr) (s : State) : RaisesExactly s (exec i s) (BadTag i) (OperandsInRange i) := by
  cases i with
  | get | set => exact raisesExactly_requireName regOfTag_eq_none_iff fun _ => raisesExactly_answer
  | fget | fset => exact raisesExactly_requireName flagOfTag_eq_none_iff fun _ => raisesExactly_answer
  | gset => exact raisesExactly_requireName groupOfTag_eq_none_iff fun _ => raisesExactly_answer
  | reset | setF5F3FromAccumulator => exact raisesExactly_answer
  | subtract8 | subtract8VC | add8 | add16 | subtract16 => exact raisesExactly_require raisesExactly_require_answer
  | toSigned8 | toSigned16 | toUnsigned8 | toUnsigned16 | inc8 | dec8 | inc16 | dec16 | parity8 | and_n | or_n | xor_n
  | rotateLeftCarry | rotateLeft | rotateRightCarry | rotateRight | shiftLeft | shiftLeftLogical | shiftRight
  | shiftRightLogical | offsetPC | setF5F3 => exact raisesExactly_require_answer

/-- Settles O14: the raise is called for by the table of R161, and the status comes only from the raise. -/
theorem unknownTagsAnswerUnknownRegister : Obligations.UnknownTagsAnswerUnknownRegister := by
  refine ⟨fun i s => ?_, by decide⟩
  have hraise := (exec_raisesExactly i s).unknown_iff
  exact ⟨hraise.2, fun hgood _ _ hexec hresponse hstatus =>
    hgood (hraise.1 (exec_eq_raised_of_status hexec hresponse hstatus))⟩

/-- Settles O15: the raise is called for by the table of R162, and the status comes only from the raise. -/
theorem operandsOutOfRangeAnswerError : Obligations.OperandsOutOfRangeAnswerError := by
  refine ⟨fun i s => ?_, by decide⟩
  have hraise := (exec_raisesExactly i s).outside_iff
  exact ⟨hraise.2, fun hin _ _ hexec hresponse hstatus =>
    hraise.1 (exec_eq_raised_of_status hexec hresponse hstatus) hin⟩

end Sys2Proof.Machine

/-! PROOFS. The invariant at reset: the state after reset holds no response (log 2) and has nothing to take (log 1),
which is all that the two predicates of the invariant read. -/

namespace Sys2Proof.Machine

open Sys2Proof Sys2Proof.Claims

section invariant

variable {s : State}

theorem responseWf_of_response_eq_none (h : s.response = none) : s.responseWf = true := by
  rw [State.responseWf, h, Option.all_none]

theorem safe_of_pending_eq_nil (h : s.pending = []) : s.safe = true := by
  rw [State.safe, h, List.all_nil]

end invariant

/-- Settles O9: the reset state has no response, and its stream is empty. -/
theorem resetMeetsInvariant : Obligations.ResetMeetsInvariant :=
  ⟨responseWf_of_response_eq_none rfl, safe_of_pending_eq_nil rfl⟩

end Sys2Proof.Machine
